-- ==== Sys2Proof/Word.lean ====
section
/-! DEFINITION. The two data widths of the core: an 8-bit byte and a 16-bit word (spec 00_scope.md R6).
Everything a test could show wrong (halves, sign extension, field extraction) stands in Machine/Bits.lean. -/

namespace Sys2Proof

/-- A byte: a register half, a memory or port datum (R6). -/
abbrev Byte := BitVec 8

/-- A word: a pair, an address of memory or of a port (R6). -/
abbrev Word := BitVec 16

end Sys2Proof
end

