-- ==== Sys2Proof/Machine/Bits.lean ====
section
/-! DEFINITION. Bit-field, byte-order and sign-extension helpers (00_scope.md R8, R15; 30_encoding.md R101). They stand
directly under Machine/ so that a repair may mend them. -/

namespace Sys2Proof

/-- `hi(v)`: bits 15 to 8 of a word (R8). -/
def hi (v : Word) : Byte := v.extractLsb' 8 8

/-- `lo(v)`: bits 7 to 0 of a word (R8). -/
def lo (v : Word) : Byte := v.extractLsb' 0 8

/-- `h:l`: the word with high byte `h` and low byte `l` (R8). -/
def join (h l : Byte) : Word := h ++ l

/-- A 16-bit immediate from its two bytes in fetch order, low byte first (R76, R102). -/
def immediate16 (first second : Byte) : Word := join second first

/-- `sext8(d)` as a word: the two's-complement reading of a displacement byte (R8). -/
def sext8 (d : Byte) : Word := d.signExtend 16

/-- `parity8(v)`: an even number of 1 bits (R15). -/
def parity8 (v : Byte) : Bool :=
  !(v.getLsbD 0 ^^ v.getLsbD 1 ^^ v.getLsbD 2 ^^ v.getLsbD 3 ^^ v.getLsbD 4 ^^ v.getLsbD 5 ^^ v.getLsbD 6 ^^ v.getLsbD 7)

/-- The byte with the bits of `mask` when `on`, else 0: one summand of a flag byte. -/
def flagIf (on : Bool) (mask : Byte) : Byte := if on then mask else 0

/-- The byte with the single bit `b` set: `1 << b` (R360). -/
def bitMask (b : BitVec 3) : Byte := 1 <<< b.toNat

/-- `x = op[7:6]` (R101). -/
def fieldX (op : Byte) : Nat := op.toNat / 64

/-- `y = op[5:3]` (R101). -/
def fieldY (op : Byte) : Nat := op.toNat / 8 % 8

/-- `z = op[2:0]` (R101). -/
def fieldZ (op : Byte) : Nat := op.toNat % 8

/-- An opcode byte from its constant bits and the value of field `y` (R101). -/
def withY (const y : Byte) : Byte := const ||| (y <<< 3)

/-- An opcode byte from its constant bits and the value of field `z` (R101). -/
def withZ (const z : Byte) : Byte := const ||| z

/-- An opcode byte from its constant bits and the value of field `p` (R101). -/
def withP (const p : Byte) : Byte := const ||| (p <<< 4)

/-- The two bytes of a 16-bit operand in fetch order, low byte first (R76, R102). -/
def operandBytes16 (nn : Word) : List Byte := [lo nn, hi nn]

end Sys2Proof
end

