-- ==== Sys2Proof/Syntax.lean ====
section
/-! DEFINITION. The instruction set as syntax: one constructor of `Instr` per row of spec/opcode_table.json, in the
table's order, over named registers, conditions and operand values (30_encoding.md R100 to R109, R119 to R125).
An undocumented second encoding keeps the field that tells it from the first one (`neg y`, `edNop op`, ...), so that
every byte sequence is the encoding of exactly one instruction. -/

namespace Sys2Proof

/-- An 8-bit register code `r` other than 6 (R104). -/
inductive Reg8 where
  | b | c | d | e | h | l | a
  deriving DecidableEq, Repr

/-- A 16-bit pair code `dd` or `ss` (R105). -/
inductive Pair where
  | bc | de | hl | sp
  deriving DecidableEq, Repr

/-- A pair code `qq` of `PUSH` and `POP` (R106). -/
inductive StackPair where
  | bc | de | hl | af
  deriving DecidableEq, Repr

/-- A pair code `pp` (after `DD`) or `rr` (after `FD`): code 2 is the index register itself (R105). -/
inductive IndexedPair where
  | bc | de | xy | sp
  deriving DecidableEq, Repr

/-- A condition code `cc` (R107). -/
inductive Cond where
  | nz | z | nc | c | po | pe | p | m
  deriving DecidableEq, Repr

/-- An index register: `IX` (prefix `DD`) or `IY` (prefix `FD`) (R23, R114). -/
inductive IndexReg where
  | ix | iy
  deriving DecidableEq, Repr

/-- A half of an index register: `IXH`/`IYH` or `IXL`/`IYL` (R23, R114 item 3). -/
inductive Half where
  | high | low
  deriving DecidableEq, Repr

/-- The five decode tables of 256 slots each (R100). -/
inductive Table where
  | standard
  | bit
  | extended
  | indexed (xy : IndexReg)
  | indexedBit (xy : IndexReg)
  deriving DecidableEq, Repr

/-- The instructions: one constructor per row of spec/opcode_table.json. `xyStandard` (a slot of the indexed table that
executes the standard instruction unchanged) and `indexedBit` (the slot `CB` of the indexed table, whose `d` and opcode
follow in the same step) hold the instruction of the other table that they run. -/
inductive Instr where
  /-- `NOP`, standard table, `00000000` (R275). -/
  | nop
  /-- `EX AF,AF'`, standard table, `00001000` (R201). -/
  | exAfAf
  /-- `DJNZ e`, standard table, `00010000` (R387). -/
  | djnz (e : Byte)
  /-- `JR e`, standard table, `00011000` (R383). -/
  | jr (e : Byte)
  /-- `JR cc,e`, standard table, `001cc000` (R384). -/
  | jrCc (cc : Cond) (e : Byte)
  /-- `LD dd,nn`, standard table, `00pp0001` (R170). -/
  | ldDdNn (dd : Pair) (nn : Word)
  /-- `ADD HL,ss`, standard table, `00pp1001` (R300). -/
  | addHlSs (ss : Pair)
  /-- `LD (BC),A`, standard table, `00000010` (R151). -/
  | ldIndBcA
  /-- `LD (DE),A`, standard table, `00010010` (R152). -/
  | ldIndDeA
  /-- `LD (nn),HL`, standard table, `00100010` (R175). -/
  | ldIndNnHl (nn : Word)
  /-- `LD (nn),A`, standard table, `00110010` (R153). -/
  | ldIndNnA (nn : Word)
  /-- `LD A,(BC)`, standard table, `00001010` (R148). -/
  | ldAIndBc
  /-- `LD A,(DE)`, standard table, `00011010` (R149). -/
  | ldAIndDe
  /-- `LD HL,(nn)`, standard table, `00101010` (R172). -/
  | ldHlIndNn (nn : Word)
  /-- `LD A,(nn)`, standard table, `00111010` (R150). -/
  | ldAIndNn (nn : Word)
  /-- `INC ss`, standard table, `00pp0011` (R304). -/
  | incSs (ss : Pair)
  /-- `DEC ss`, standard table, `00pp1011` (R305). -/
  | decSs (ss : Pair)
  /-- `INC r`, standard table, `00yyy100` (R243). -/
  | incR (r : Reg8)
  /-- `INC (HL)`, standard table, `00110100` (R244). -/
  | incIndHl
  /-- `DEC r`, standard table, `00yyy101` (R246). -/
  | decR (r : Reg8)
  /-- `DEC (HL)`, standard table, `00110101` (R247). -/
  | decIndHl
  /-- `LD r,n`, standard table, `00yyy110` (R141). -/
  | ldRN (r : Reg8) (n : Byte)
  /-- `LD (HL),n`, standard table, `00110110` (R146). -/
  | ldIndHlN (n : Byte)
  /-- `RLCA`, standard table, `00000111` (R320). -/
  | rlca
  /-- `RRCA`, standard table, `00001111` (R322). -/
  | rrca
  /-- `RLA`, standard table, `00010111` (R321). -/
  | rla
  /-- `RRA`, standard table, `00011111` (R323). -/
  | rra
  /-- `DAA`, standard table, `00100111` (R270). -/
  | daa
  /-- `CPL`, standard table, `00101111` (R271). -/
  | cpl
  /-- `SCF`, standard table, `00110111` (R274). -/
  | scf
  /-- `CCF`, standard table, `00111111` (R273). -/
  | ccf
  /-- `HALT`, standard table, `01110110` (R277). -/
  | halt
  /-- `LD (HL),r`, standard table, `01110zzz` (R144). -/
  | ldIndHlR (r : Reg8)
  /-- `LD r,(HL)`, standard table, `01yyy110` (R142). -/
  | ldRIndHl (r : Reg8)
  /-- `LD r,r'`, standard table, `01yyyzzz` (R140). -/
  | ldRR (y : Reg8) (z : Reg8)
  /-- `ADD A,r`, standard table, `10000zzz` (R235). -/
  | addR (r : Reg8)
  /-- `ADD A,(HL)`, standard table, `10000110` (R235). -/
  | addIndHl
  /-- `ADC A,r`, standard table, `10001zzz` (R236). -/
  | adcR (r : Reg8)
  /-- `ADC A,(HL)`, standard table, `10001110` (R236). -/
  | adcIndHl
  /-- `SUB r`, standard table, `10010zzz` (R237). -/
  | subR (r : Reg8)
  /-- `SUB (HL)`, standard table, `10010110` (R237). -/
  | subIndHl
  /-- `SBC A,r`, standard table, `10011zzz` (R238). -/
  | sbcR (r : Reg8)
  /-- `SBC A,(HL)`, standard table, `10011110` (R238). -/
  | sbcIndHl
  /-- `AND r`, standard table, `10100zzz` (R239). -/
  | andR (r : Reg8)
  /-- `AND (HL)`, standard table, `10100110` (R239). -/
  | andIndHl
  /-- `XOR r`, standard table, `10101zzz` (R240). -/
  | xorR (r : Reg8)
  /-- `XOR (HL)`, standard table, `10101110` (R240). -/
  | xorIndHl
  /-- `OR r`, standard table, `10110zzz` (R241). -/
  | orR (r : Reg8)
  /-- `OR (HL)`, standard table, `10110110` (R241). -/
  | orIndHl
  /-- `CP r`, standard table, `10111zzz` (R242). -/
  | cpR (r : Reg8)
  /-- `CP (HL)`, standard table, `10111110` (R242). -/
  | cpIndHl
  /-- `RET cc`, standard table, `11yyy000` (R391). -/
  | retCc (cc : Cond)
  /-- `POP qq`, standard table, `11pp0001` (R182). -/
  | popQq (qq : StackPair)
  /-- `RET`, standard table, `11001001` (R390). -/
  | ret
  /-- `EXX`, standard table, `11011001` (R202). -/
  | exx
  /-- `JP (HL)`, standard table, `11101001` (R385). -/
  | jpIndHl
  /-- `LD SP,HL`, standard table, `11111001` (R178). -/
  | ldSpHl
  /-- `JP cc,nn`, standard table, `11yyy010` (R382). -/
  | jpCcNn (cc : Cond) (nn : Word)
  /-- `JP nn`, standard table, `11000011` (R381). -/
  | jpNn (nn : Word)
  /-- `prefix CB`, standard table, `11001011` (R113). -/
  | prefixCb
  /-- `OUT (n),A`, standard table, `11010011` (R413). -/
  | outIndNA (n : Byte)
  /-- `IN A,(n)`, standard table, `11011011` (R410). -/
  | inAIndN (n : Byte)
  /-- `EX (SP),HL`, standard table, `11100011` (R203). -/
  | exIndSpHl
  /-- `EX DE,HL`, standard table, `11101011` (R200). -/
  | exDeHl
  /-- `DI`, standard table, `11110011` (R278). -/
  | di
  /-- `EI`, standard table, `11111011` (R279). -/
  | ei
  /-- `CALL cc,nn`, standard table, `11yyy100` (R389). -/
  | callCcNn (cc : Cond) (nn : Word)
  /-- `PUSH qq`, standard table, `11pp0101` (R180). -/
  | pushQq (qq : StackPair)
  /-- `CALL nn`, standard table, `11001101` (R388). -/
  | callNn (nn : Word)
  /-- `prefix DD`, standard table, `11011101` (R112). -/
  | prefixDd
  /-- `prefix ED`, standard table, `11101101` (R113). -/
  | prefixEd
  /-- `prefix FD`, standard table, `11111101` (R112). -/
  | prefixFd
  /-- `ADD A,n`, standard table, `11000110` (R235). -/
  | addN (n : Byte)
  /-- `ADC A,n`, standard table, `11001110` (R236). -/
  | adcN (n : Byte)
  /-- `SUB n`, standard table, `11010110` (R237). -/
  | subN (n : Byte)
  /-- `SBC A,n`, standard table, `11011110` (R238). -/
  | sbcN (n : Byte)
  /-- `AND n`, standard table, `11100110` (R239). -/
  | andN (n : Byte)
  /-- `XOR n`, standard table, `11101110` (R240). -/
  | xorN (n : Byte)
  /-- `OR n`, standard table, `11110110` (R241). -/
  | orN (n : Byte)
  /-- `CP n`, standard table, `11111110` (R242). -/
  | cpN (n : Byte)
  /-- `RST p`, standard table, `11yyy111` (R394). `p`: the field `y`, a target address divided by 8. -/
  | rst (p : BitVec 3)
  /-- `RLC r`, after `CB`, `00000zzz` (R326). -/
  | rlcR (r : Reg8)
  /-- `RLC (HL)`, after `CB`, `00000110` (R326). -/
  | rlcIndHl
  /-- `RRC r`, after `CB`, `00001zzz` (R327). -/
  | rrcR (r : Reg8)
  /-- `RRC (HL)`, after `CB`, `00001110` (R327). -/
  | rrcIndHl
  /-- `RL r`, after `CB`, `00010zzz` (R328). -/
  | rlR (r : Reg8)
  /-- `RL (HL)`, after `CB`, `00010110` (R328). -/
  | rlIndHl
  /-- `RR r`, after `CB`, `00011zzz` (R329). -/
  | rrR (r : Reg8)
  /-- `RR (HL)`, after `CB`, `00011110` (R329). -/
  | rrIndHl
  /-- `SLA r`, after `CB`, `00100zzz` (R330). -/
  | slaR (r : Reg8)
  /-- `SLA (HL)`, after `CB`, `00100110` (R330). -/
  | slaIndHl
  /-- `SRA r`, after `CB`, `00101zzz` (R331). -/
  | sraR (r : Reg8)
  /-- `SRA (HL)`, after `CB`, `00101110` (R331). -/
  | sraIndHl
  /-- `SLL r`, after `CB`, `00110zzz` (R332). -/
  | sllR (r : Reg8)
  /-- `SLL (HL)`, after `CB`, `00110110` (R332). -/
  | sllIndHl
  /-- `SRL r`, after `CB`, `00111zzz` (R333). -/
  | srlR (r : Reg8)
  /-- `SRL (HL)`, after `CB`, `00111110` (R333). -/
  | srlIndHl
  /-- `BIT b,r`, after `CB`, `01bbbzzz` (R361). -/
  | bitR (b : BitVec 3) (r : Reg8)
  /-- `BIT b,(HL)`, after `CB`, `01bbb110` (R362). -/
  | bitIndHl (b : BitVec 3)
  /-- `RES b,r`, after `CB`, `10bbbzzz` (R367). -/
  | resR (b : BitVec 3) (r : Reg8)
  /-- `RES b,(HL)`, after `CB`, `10bbb110` (R368). -/
  | resIndHl (b : BitVec 3)
  /-- `SET b,r`, after `CB`, `11bbbzzz` (R364). -/
  | setR (b : BitVec 3) (r : Reg8)
  /-- `SET b,(HL)`, after `CB`, `11bbb110` (R365). -/
  | setIndHl (b : BitVec 3)
  /-- `IN r,(C)`, after `ED`, `01yyy000` (R411). -/
  | inRIndC (r : Reg8)
  /-- `IN (C)`, after `ED`, `01110000` (R412). -/
  | inIndC
  /-- `OUT (C),r`, after `ED`, `01yyy001` (R414). -/
  | outIndCR (r : Reg8)
  /-- `OUT (C),0`, after `ED`, `01110001` (R415). -/
  | outIndC0
  /-- `SBC HL,ss`, after `ED`, `01pp0010` (R302). -/
  | sbcHlSs (ss : Pair)
  /-- `ADC HL,ss`, after `ED`, `01pp1010` (R301). -/
  | adcHlSs (ss : Pair)
  /-- `LD (nn),dd`, after `ED`, `01pp0011` (R176). -/
  | ldIndNnDd (dd : Pair) (nn : Word)
  /-- `LD dd,(nn)`, after `ED`, `01pp1011` (R173). -/
  | ldDdIndNn (dd : Pair) (nn : Word)
  /-- `NEG`, after `ED`, `01yyy100` (R272). `y`: the field that tells the eight encodings apart. -/
  | neg (y : BitVec 3)
  /-- `RETN`, after `ED`, `01yyy101` (R393). `y`: the field that tells the seven encodings apart. -/
  | retn (y : BitVec 3)
  /-- `RETI`, after `ED`, `01001101` (R392). -/
  | reti
  /-- `IM 0`, after `ED`, `01a0b110` (R281). `u`, `v`: opcode bits 5 and 3. -/
  | im0 (u : Bool) (v : Bool)
  /-- `IM 1`, after `ED`, `01a10110` (R281). `u`: opcode bit 5. -/
  | im1 (u : Bool)
  /-- `IM 2`, after `ED`, `01a11110` (R281). `u`: opcode bit 5. -/
  | im2 (u : Bool)
  /-- `LD I,A`, after `ED`, `01000111` (R156). -/
  | ldIA
  /-- `LD R,A`, after `ED`, `01001111` (R157). -/
  | ldRA
  /-- `LD A,I`, after `ED`, `01010111` (R154). -/
  | ldAI
  /-- `LD A,R`, after `ED`, `01011111` (R155). -/
  | ldAR
  /-- `RRD`, after `ED`, `01100111` (R335). -/
  | rrd
  /-- `RLD`, after `ED`, `01101111` (R334). -/
  | rld
  /-- `LDI`, after `ED`, `10100000` (R205). -/
  | ldi
  /-- `CPI`, after `ED`, `10100001` (R210). -/
  | cpi
  /-- `INI`, after `ED`, `10100010` (R417). -/
  | ini
  /-- `OUTI`, after `ED`, `10100011` (R421). -/
  | outi
  /-- `LDD`, after `ED`, `10101000` (R207). -/
  | ldd
  /-- `CPD`, after `ED`, `10101001` (R212). -/
  | cpd
  /-- `IND`, after `ED`, `10101010` (R419). -/
  | ind
  /-- `OUTD`, after `ED`, `10101011` (R423). -/
  | outd
  /-- `LDIR`, after `ED`, `10110000` (R206). -/
  | ldir
  /-- `CPIR`, after `ED`, `10110001` (R211). -/
  | cpir
  /-- `INIR`, after `ED`, `10110010` (R418). -/
  | inir
  /-- `OTIR`, after `ED`, `10110011` (R422). -/
  | otir
  /-- `LDDR`, after `ED`, `10111000` (R208). -/
  | lddr
  /-- `CPDR`, after `ED`, `10111001` (R213). -/
  | cpdr
  /-- `INDR`, after `ED`, `10111010` (R420). -/
  | indr
  /-- `OTDR`, after `ED`, `10111011` (R424). -/
  | otdr
  /-- `NOP (extended-table no-op)`, after `ED`, the slots listed in R276 (R276). `op`: the opcode byte. -/
  | edNop (op : Byte)
  /-- `ADD IX,pp / ADD IY,rr`, after `DD`/`FD`, `00pp1001` (R303). -/
  | addXyPp (xy : IndexReg) (pp : IndexedPair)
  /-- `LD IX,nn / LD IY,nn`, after `DD`/`FD`, `00100001` (R171). -/
  | ldXyNn (xy : IndexReg) (nn : Word)
  /-- `LD (nn),IX / LD (nn),IY`, after `DD`/`FD`, `00100010` (R177). -/
  | ldIndNnXy (xy : IndexReg) (nn : Word)
  /-- `LD IX,(nn) / LD IY,(nn)`, after `DD`/`FD`, `00101010` (R174). -/
  | ldXyIndNn (xy : IndexReg) (nn : Word)
  /-- `INC IX / INC IY`, after `DD`/`FD`, `00100011` (R306). -/
  | incXy (xy : IndexReg)
  /-- `DEC IX / DEC IY`, after `DD`/`FD`, `00101011` (R307). -/
  | decXy (xy : IndexReg)
  /-- `INC IXH|IXL / INC IYH|IYL`, after `DD`/`FD`, `0010h100` (R243). -/
  | incXyHalf (xy : IndexReg) (h : Half)
  /-- `DEC IXH|IXL / DEC IYH|IYL`, after `DD`/`FD`, `0010h101` (R246). -/
  | decXyHalf (xy : IndexReg) (h : Half)
  /-- `LD IXH|IXL,n / LD IYH|IYL,n`, after `DD`/`FD`, `0010h110` (R141). -/
  | ldXyHalfN (xy : IndexReg) (h : Half) (n : Byte)
  /-- `INC (IX+d) / INC (IY+d)`, after `DD`/`FD`, `00110100` (R245). -/
  | incIndXy (xy : IndexReg) (d : Byte)
  /-- `DEC (IX+d) / DEC (IY+d)`, after `DD`/`FD`, `00110101` (R248). -/
  | decIndXy (xy : IndexReg) (d : Byte)
  /-- `LD (IX+d),n / LD (IY+d),n`, after `DD`/`FD`, `00110110` (R147). -/
  | ldIndXyN (xy : IndexReg) (d : Byte) (n : Byte)
  /-- `LD r,(IX+d) / LD r,(IY+d)`, after `DD`/`FD`, `01yyy110` (R143). -/
  | ldRIndXy (xy : IndexReg) (r : Reg8) (d : Byte)
  /-- `LD (IX+d),r / LD (IY+d),r`, after `DD`/`FD`, `01110zzz` (R145). -/
  | ldIndXyR (xy : IndexReg) (d : Byte) (r : Reg8)
  /-- `LD r,r' with IXH/IXL (IYH/IYL) for H/L`, after `DD`/`FD`, `01yyyzzz` (R140). -/
  | ldRRXy (xy : IndexReg) (y : Reg8) (z : Reg8)
  /-- `ADD A,IXH|IXL / ADD A,IYH|IYL`, after `DD`/`FD`, `1000010h` (R235). -/
  | addXyHalf (xy : IndexReg) (h : Half)
  /-- `ADD A,(IX+d) / ADD A,(IY+d)`, after `DD`/`FD`, `10000110` (R235). -/
  | addIndXy (xy : IndexReg) (d : Byte)
  /-- `ADC A,IXH|IXL / ADC A,IYH|IYL`, after `DD`/`FD`, `1000110h` (R236). -/
  | adcXyHalf (xy : IndexReg) (h : Half)
  /-- `ADC A,(IX+d) / ADC A,(IY+d)`, after `DD`/`FD`, `10001110` (R236). -/
  | adcIndXy (xy : IndexReg) (d : Byte)
  /-- `SUB IXH|IXL / SUB IYH|IYL`, after `DD`/`FD`, `1001010h` (R237). -/
  | subXyHalf (xy : IndexReg) (h : Half)
  /-- `SUB (IX+d) / SUB (IY+d)`, after `DD`/`FD`, `10010110` (R237). -/
  | subIndXy (xy : IndexReg) (d : Byte)
  /-- `SBC A,IXH|IXL / SBC A,IYH|IYL`, after `DD`/`FD`, `1001110h` (R238). -/
  | sbcXyHalf (xy : IndexReg) (h : Half)
  /-- `SBC A,(IX+d) / SBC A,(IY+d)`, after `DD`/`FD`, `10011110` (R238). -/
  | sbcIndXy (xy : IndexReg) (d : Byte)
  /-- `AND IXH|IXL / AND IYH|IYL`, after `DD`/`FD`, `1010010h` (R239). -/
  | andXyHalf (xy : IndexReg) (h : Half)
  /-- `AND (IX+d) / AND (IY+d)`, after `DD`/`FD`, `10100110` (R239). -/
  | andIndXy (xy : IndexReg) (d : Byte)
  /-- `XOR IXH|IXL / XOR IYH|IYL`, after `DD`/`FD`, `1010110h` (R240). -/
  | xorXyHalf (xy : IndexReg) (h : Half)
  /-- `XOR (IX+d) / XOR (IY+d)`, after `DD`/`FD`, `10101110` (R240). -/
  | xorIndXy (xy : IndexReg) (d : Byte)
  /-- `OR IXH|IXL / OR IYH|IYL`, after `DD`/`FD`, `1011010h` (R241). -/
  | orXyHalf (xy : IndexReg) (h : Half)
  /-- `OR (IX+d) / OR (IY+d)`, after `DD`/`FD`, `10110110` (R241). -/
  | orIndXy (xy : IndexReg) (d : Byte)
  /-- `CP IXH|IXL / CP IYH|IYL`, after `DD`/`FD`, `1011110h` (R242). -/
  | cpXyHalf (xy : IndexReg) (h : Half)
  /-- `CP (IX+d) / CP (IY+d)`, after `DD`/`FD`, `10111110` (R242). -/
  | cpIndXy (xy : IndexReg) (d : Byte)
  /-- `indexed-bit format (CB d op follow in the same step)`, after `DD`/`FD`, `11001011` (R115). -/
  | indexedBit (xy : IndexReg) (i : Instr)
  /-- `POP IX / POP IY`, after `DD`/`FD`, `11100001` (R183). -/
  | popXy (xy : IndexReg)
  /-- `PUSH IX / PUSH IY`, after `DD`/`FD`, `11100101` (R181). -/
  | pushXy (xy : IndexReg)
  /-- `EX (SP),IX / EX (SP),IY`, after `DD`/`FD`, `11100011` (R204). -/
  | exIndSpXy (xy : IndexReg)
  /-- `JP (IX) / JP (IY)`, after `DD`/`FD`, `11101001` (R386). -/
  | jpIndXy (xy : IndexReg)
  /-- `LD SP,IX / LD SP,IY`, after `DD`/`FD`, `11111001` (R179). -/
  | ldSpXy (xy : IndexReg)
  /-- `prefix DD (replaces the pending index prefix)`, after `DD`/`FD`, `11011101` (R112). -/
  | xyPrefixDd (xy : IndexReg)
  /-- `prefix FD (replaces the pending index prefix)`, after `DD`/`FD`, `11111101` (R112). -/
  | xyPrefixFd (xy : IndexReg)
  /-- `prefix ED (index prefix then ignored)`, after `DD`/`FD`, `11101101` (R113). -/
  | xyPrefixEd (xy : IndexReg)
  /-- `(the standard-table instruction of the same opcode, executed unchanged)`, after `DD`/`FD`, every slot the other rows leave (R114). -/
  | xyStandard (xy : IndexReg) (i : Instr)
  /-- `RLC (IX+d) / (IY+d)`, after `DD CB`/`FD CB`, `d`, opcode, `00000110` (R326). -/
  | rlcIndXy (xy : IndexReg) (d : Byte)
  /-- `RLC (IX+d),r / (IY+d),r`, after `DD CB`/`FD CB`, `d`, opcode, `00000zzz` (R326). -/
  | rlcIndXyR (xy : IndexReg) (d : Byte) (r : Reg8)
  /-- `RRC (IX+d) / (IY+d)`, after `DD CB`/`FD CB`, `d`, opcode, `00001110` (R327). -/
  | rrcIndXy (xy : IndexReg) (d : Byte)
  /-- `RRC (IX+d),r / (IY+d),r`, after `DD CB`/`FD CB`, `d`, opcode, `00001zzz` (R327). -/
  | rrcIndXyR (xy : IndexReg) (d : Byte) (r : Reg8)
  /-- `RL (IX+d) / (IY+d)`, after `DD CB`/`FD CB`, `d`, opcode, `00010110` (R328). -/
  | rlIndXy (xy : IndexReg) (d : Byte)
  /-- `RL (IX+d),r / (IY+d),r`, after `DD CB`/`FD CB`, `d`, opcode, `00010zzz` (R328). -/
  | rlIndXyR (xy : IndexReg) (d : Byte) (r : Reg8)
  /-- `RR (IX+d) / (IY+d)`, after `DD CB`/`FD CB`, `d`, opcode, `00011110` (R329). -/
  | rrIndXy (xy : IndexReg) (d : Byte)
  /-- `RR (IX+d),r / (IY+d),r`, after `DD CB`/`FD CB`, `d`, opcode, `00011zzz` (R329). -/
  | rrIndXyR (xy : IndexReg) (d : Byte) (r : Reg8)
  /-- `SLA (IX+d) / (IY+d)`, after `DD CB`/`FD CB`, `d`, opcode, `00100110` (R330). -/
  | slaIndXy (xy : IndexReg) (d : Byte)
  /-- `SLA (IX+d),r / (IY+d),r`, after `DD CB`/`FD CB`, `d`, opcode, `00100zzz` (R330). -/
  | slaIndXyR (xy : IndexReg) (d : Byte) (r : Reg8)
  /-- `SRA (IX+d) / (IY+d)`, after `DD CB`/`FD CB`, `d`, opcode, `00101110` (R331). -/
  | sraIndXy (xy : IndexReg) (d : Byte)
  /-- `SRA (IX+d),r / (IY+d),r`, after `DD CB`/`FD CB`, `d`, opcode, `00101zzz` (R331). -/
  | sraIndXyR (xy : IndexReg) (d : Byte) (r : Reg8)
  /-- `SLL (IX+d) / (IY+d)`, after `DD CB`/`FD CB`, `d`, opcode, `00110110` (R332). -/
  | sllIndXy (xy : IndexReg) (d : Byte)
  /-- `SLL (IX+d),r / (IY+d),r`, after `DD CB`/`FD CB`, `d`, opcode, `00110zzz` (R332). -/
  | sllIndXyR (xy : IndexReg) (d : Byte) (r : Reg8)
  /-- `SRL (IX+d) / (IY+d)`, after `DD CB`/`FD CB`, `d`, opcode, `00111110` (R333). -/
  | srlIndXy (xy : IndexReg) (d : Byte)
  /-- `SRL (IX+d),r / (IY+d),r`, after `DD CB`/`FD CB`, `d`, opcode, `00111zzz` (R333). -/
  | srlIndXyR (xy : IndexReg) (d : Byte) (r : Reg8)
  /-- `BIT b,(IX+d) / BIT b,(IY+d)`, after `DD CB`/`FD CB`, `d`, opcode, `01bbbzzz` (R363). `z`: the ignored field. -/
  | bitIndXy (xy : IndexReg) (b : BitVec 3) (d : Byte) (z : BitVec 3)
  /-- `RES b,(IX+d) / RES b,(IY+d)`, after `DD CB`/`FD CB`, `d`, opcode, `10bbb110` (R369). -/
  | resIndXy (xy : IndexReg) (b : BitVec 3) (d : Byte)
  /-- `RES b,(IX+d),r / RES b,(IY+d),r`, after `DD CB`/`FD CB`, `d`, opcode, `10bbbzzz` (R369). -/
  | resIndXyR (xy : IndexReg) (b : BitVec 3) (d : Byte) (r : Reg8)
  /-- `SET b,(IX+d) / SET b,(IY+d)`, after `DD CB`/`FD CB`, `d`, opcode, `11bbb110` (R366). -/
  | setIndXy (xy : IndexReg) (b : BitVec 3) (d : Byte)
  /-- `SET b,(IX+d),r / SET b,(IY+d),r`, after `DD CB`/`FD CB`, `d`, opcode, `11bbbzzz` (R366). -/
  | setIndXyR (xy : IndexReg) (b : BitVec 3) (d : Byte) (r : Reg8)
  deriving DecidableEq, Repr

end Sys2Proof
end

