-- ==== Sys2Proof/Machine/Flags.lean ====
section
/-! DEFINITION. The flag byte and the arithmetic as pure functions from operands and old flags to results and new flags
(10_state.md R27 to R30; 43_alu8.md R230 to R233; 44 R270; 45 R300 to R302; 46 R324; 47 R360; 49 R416). Carries and
borrows are comparisons of exact natural numbers: `x < y` says that `x - y < 0`. -/

namespace Sys2Proof.Machine

/-! ### Flag positions (R28) -/

/-- `S`, bit 7. -/
def flagS (f : Byte) : Bool := f.getLsbD 7
/-- `Z`, bit 6. -/
def flagZ (f : Byte) : Bool := f.getLsbD 6
/-- `H`, bit 4. -/
def flagH (f : Byte) : Bool := f.getLsbD 4
/-- `PV`, bit 2. -/
def flagPV (f : Byte) : Bool := f.getLsbD 2
/-- `N`, bit 1. -/
def flagN (f : Byte) : Bool := f.getLsbD 1
/-- `C`, bit 0. -/
def flagC (f : Byte) : Bool := f.getLsbD 0
/-- `F5`, bit 5. -/
def flag5 (f : Byte) : Bool := f.getLsbD 5
/-- `F3`, bit 3. -/
def flag3 (f : Byte) : Bool := f.getLsbD 3

/-- `sz53(v)`: S, F5, F3 from the byte, Z from zero (R15). -/
def sz53 (v : Byte) : Byte := (v &&& 0xA8) ||| flagIf (v = 0) 0x40

/-- `sz53p(v)`: with `PV` as parity (R15). -/
def sz53p (v : Byte) : Byte := sz53 v ||| flagIf (parity8 v) 0x04

/-- A carry as a byte. -/
def carryByte (c : Bool) : Byte := flagIf c 0x01

/-! ### 8-bit arithmetic and logic (R230 to R233) -/

/-- `add8(a, b, c)` (R230): result and flag byte. -/
def add8 (a b : Byte) (c : Bool) : Byte × Byte :=
  let s := a.toNat + b.toNat + c.toNat
  let r := a + b + carryByte c
  let hf := (a &&& 0x0F).toNat + (b &&& 0x0F).toNat + c.toNat > 0x0F
  let vf := (a ^^^ r) &&& (b ^^^ r) &&& 0x80 ≠ 0
  (r, (r &&& 0xA8) ||| flagIf (r = 0) 0x40 ||| flagIf hf 0x10 ||| flagIf vf 0x04 ||| flagIf (s > 0xFF) 0x01)

/-- `sub8(a, b, c)` (R231): result and flag byte. -/
def sub8 (a b : Byte) (c : Bool) : Byte × Byte :=
  let r := a - b - carryByte c
  let hf := (a &&& 0x0F).toNat < (b &&& 0x0F).toNat + c.toNat
  let vf := (a ^^^ b) &&& (a ^^^ r) &&& 0x80 ≠ 0
  (r, (r &&& 0xA8) ||| flagIf (r = 0) 0x40 ||| flagIf hf 0x10 ||| flagIf vf 0x04 ||| 0x02 |||
    flagIf (a.toNat < b.toNat + c.toNat) 0x01)

/-- `and8(a, b)` (R232). -/
def and8 (a b : Byte) : Byte × Byte := (a &&& b, sz53p (a &&& b) ||| 0x10)

/-- `or8(a, b)` (R232). -/
def or8 (a b : Byte) : Byte × Byte := (a ||| b, sz53p (a ||| b))

/-- `xor8(a, b)` (R232). -/
def xor8 (a b : Byte) : Byte × Byte := (a ^^^ b, sz53p (a ^^^ b))

/-- `CP`: the flags of `sub8` with F5 and F3 from the operand; the accumulator stays (R242). -/
def cp8 (a b : Byte) : Byte × Byte := (a, ((sub8 a b false).2 &&& 0xD7) ||| (b &&& 0x28))

/-- `inc8(v, F)` (R233). -/
def inc8 (v f : Byte) : Byte × Byte :=
  let r := v + 1
  (r, (f &&& 0x01) ||| (r &&& 0xA8) ||| flagIf (r = 0) 0x40 ||| flagIf (v &&& 0x0F = 0x0F) 0x10 |||
    flagIf (v = 0x7F) 0x04)

/-- `dec8(v, F)` (R233). -/
def dec8 (v f : Byte) : Byte × Byte :=
  let r := v - 1
  (r, (f &&& 0x01) ||| 0x02 ||| (r &&& 0xA8) ||| flagIf (r = 0) 0x40 ||| flagIf (v &&& 0x0F = 0x00) 0x10 |||
    flagIf (v = 0x80) 0x04)

/-- The eight accumulator operations (R108). -/
inductive AluOp where
  | add | adc | sub | sbc | and | xor | or | cp
  deriving DecidableEq, Repr

/-- The new accumulator and flag byte of an accumulator operation from the old ones and the operand (R235 to R242). -/
def alu8 (op : AluOp) (a v f : Byte) : Byte × Byte :=
  match op with
  | .add => add8 a v false
  | .adc => add8 a v (flagC f)
  | .sub => sub8 a v false
  | .sbc => sub8 a v (flagC f)
  | .and => and8 a v
  | .xor => xor8 a v
  | .or => or8 a v
  | .cp => cp8 a v

/-! ### General-purpose arithmetic (R270 to R274) -/

/-- `DAA` (R270): the new accumulator and flag byte. -/
def daa8 (a f : Byte) : Byte × Byte :=
  let c := flagC f
  let h := flagH f
  let n := flagN f
  let low := (a &&& 0x0F).toNat
  let c' := c || decide (a.toNat > 0x99)
  let adj := flagIf (h || decide (low > 9)) 0x06 ||| flagIf c' 0x60
  let h' := if n then h && decide (low < 6) else decide (low > 9)
  let r := if n then a - adj else a + adj
  (r, sz53p r ||| flagIf h' 0x10 ||| flagIf n 0x02 ||| flagIf c' 0x01)

/-- `CPL` (R271). -/
def cpl8 (a f : Byte) : Byte × Byte :=
  let r := a ^^^ 0xFF
  (r, (f &&& 0xC5) ||| 0x12 ||| (r &&& 0x28))

/-- The flags of `CCF` (R273). -/
def ccfFlags (a f : Byte) : Byte :=
  (f &&& 0xC4) ||| flagIf (flagC f) 0x10 ||| (a &&& 0x28) ||| flagIf (!flagC f) 0x01

/-- The flags of `SCF` (R274). -/
def scfFlags (a f : Byte) : Byte := (f &&& 0xC4) ||| (a &&& 0x28) ||| 0x01

/-- The flags of `LD A,I` and `LD A,R` (R154, R155). -/
def ldAIRFlags (a f : Byte) (iff2 : Bool) : Byte := (f &&& 0x01) ||| sz53 a ||| flagIf iff2 0x04

/-! ### 16-bit arithmetic (R300 to R302) -/

/-- `ADD HL,ss` and `ADD IX,pp` (R300, R303): sum and flag byte. -/
def add16 (a b : Word) (f : Byte) : Word × Byte :=
  let s := a.toNat + b.toNat
  let r := a + b
  (r, (f &&& 0xC4) ||| (hi r &&& 0x28) ||| flagIf ((a &&& 0x0FFF).toNat + (b &&& 0x0FFF).toNat > 0x0FFF) 0x10 |||
    flagIf (s > 0xFFFF) 0x01)

/-- `ADC HL,ss` (R301). -/
def adc16 (a b : Word) (c : Bool) : Word × Byte :=
  let s := a.toNat + b.toNat + c.toNat
  let r := a + b + join 0 (carryByte c)
  (r, (hi r &&& 0xA8) ||| flagIf (r = 0) 0x40 |||
    flagIf ((a &&& 0x0FFF).toNat + (b &&& 0x0FFF).toNat + c.toNat > 0x0FFF) 0x10 |||
    flagIf ((a ^^^ r) &&& (b ^^^ r) &&& 0x8000 ≠ 0) 0x04 ||| flagIf (s > 0xFFFF) 0x01)

/-- `SBC HL,ss` (R302). -/
def sbc16 (a b : Word) (c : Bool) : Word × Byte :=
  let r := a - b - join 0 (carryByte c)
  (r, (hi r &&& 0xA8) ||| flagIf (r = 0) 0x40 ||| 0x02 |||
    flagIf ((a &&& 0x0FFF).toNat < (b &&& 0x0FFF).toNat + c.toNat) 0x10 |||
    flagIf ((a ^^^ b) &&& (a ^^^ r) &&& 0x8000 ≠ 0) 0x04 ||| flagIf (a.toNat < b.toNat + c.toNat) 0x01)

/-! ### Rotates and shifts (R320 to R324, R334, R335) -/

/-- The eight bit-table operations (R109). -/
inductive RotOp where
  | rlc | rrc | rl | rr | sla | sra | sll | srl
  deriving DecidableEq, Repr

/-- `rot[y](v, cin)`: result and carry-out (R324). -/
def rot8 (op : RotOp) (v : Byte) (cin : Bool) : Byte × Bool :=
  match op with
  | .rlc => ((v <<< 1) ||| flagIf (v.getLsbD 7) 0x01, v.getLsbD 7)
  | .rrc => ((v >>> 1) ||| flagIf (v.getLsbD 0) 0x80, v.getLsbD 0)
  | .rl => ((v <<< 1) ||| flagIf cin 0x01, v.getLsbD 7)
  | .rr => ((v >>> 1) ||| flagIf cin 0x80, v.getLsbD 0)
  | .sla => (v <<< 1, v.getLsbD 7)
  | .sra => ((v >>> 1) ||| (v &&& 0x80), v.getLsbD 0)
  | .sll => ((v <<< 1) ||| 0x01, v.getLsbD 7)
  | .srl => (v >>> 1, v.getLsbD 0)

/-- The result and flag byte of a bit-table operation (R324). -/
def rotFlags (op : RotOp) (v f : Byte) : Byte × Byte :=
  let (r, c) := rot8 op v (flagC f)
  (r, sz53p r ||| carryByte c)

/-- The result and flag byte of an accumulator rotate, which keeps S, Z and PV (R320 to R323). -/
def rotAFlags (op : RotOp) (a f : Byte) : Byte × Byte :=
  let (r, c) := rot8 op a (flagC f)
  (r, (f &&& 0xC4) ||| (r &&& 0x28) ||| carryByte c)

/-- The flags of `RLD`, `RRD` and `IN r,(C)`: all from a byte, `C` kept (R334, R335, R411). -/
def byteFlags (v f : Byte) : Byte := (f &&& 0x01) ||| sz53p v

/-! ### Bit tests (R360) -/

/-- `bitflags(v, b, x53, F)` (R360). -/
def bitFlags (v : Byte) (b : BitVec 3) (x53 f : Byte) : Byte :=
  let t := v &&& bitMask b
  (f &&& 0x01) ||| 0x10 ||| (x53 &&& 0x28) ||| flagIf (t = 0) 0x44 ||| flagIf (b = 7 && t ≠ 0) 0x80

/-! ### Block instructions (R205, R210, R416) -/

/-- The flags of `LDI` and its family, from the old flags, the accumulator, the byte moved and whether `BC` is not 0
(R205). -/
def ldBlockFlags (f a t : Byte) (more : Bool) : Byte :=
  let n := a + t
  (f &&& 0xC1) ||| flagIf more 0x04 ||| (n &&& 0x08) ||| ((n &&& 0x02) <<< 4)

/-- The flags of `CPI` and its family (R210). -/
def cpBlockFlags (f a t : Byte) (more : Bool) : Byte :=
  let r := a - t
  let h := decide ((a &&& 0x0F).toNat < (t &&& 0x0F).toNat)
  let n := r - carryByte h
  (f &&& 0x01) ||| 0x02 ||| (r &&& 0x80) ||| flagIf (r = 0) 0x40 ||| flagIf h 0x10 ||| flagIf more 0x04 |||
    (n &&& 0x08) ||| ((n &&& 0x02) <<< 4)

/-- `blockio_flags(t, k, B)` (R416). -/
def blockIoFlags (t : Byte) (k : Nat) (b : Byte) : Byte :=
  sz53 b ||| flagIf (t.getLsbD 7) 0x02 ||| flagIf (k > 0xFF) 0x11 |||
    flagIf (parity8 ((BitVec.ofNat 8 k &&& 0x07) ^^^ b)) 0x04

/-! ### Conditions (R107) -/

/-- `cond(cc)`: the condition's test on the flag byte (R107, R380). -/
def condHolds (cc : Cond) (f : Byte) : Bool :=
  match cc with
  | .nz => !flagZ f
  | .z => flagZ f
  | .nc => !flagC f
  | .c => flagC f
  | .po => !flagPV f
  | .pe => flagPV f
  | .p => !flagS f
  | .m => flagS f

end Sys2Proof.Machine
end

