-- ==== Sys2Proof/WellFormed.lean ====
section
/-! DEFINITION. Which terms of `Instr` are instructions of the hardware: the decode table each constructor belongs to
(30_encoding.md R100) and the well-formedness check (the constraints the opcode table puts on a row's fields). -/

namespace Sys2Proof

/-- The decode table a constructor is a slot of (R100, R119 to R125). -/
def Instr.table : Instr → Table
  | .nop => .standard
  | .exAfAf => .standard
  | .djnz _ => .standard
  | .jr _ => .standard
  | .jrCc _ _ => .standard
  | .ldDdNn _ _ => .standard
  | .addHlSs _ => .standard
  | .ldIndBcA => .standard
  | .ldIndDeA => .standard
  | .ldIndNnHl _ => .standard
  | .ldIndNnA _ => .standard
  | .ldAIndBc => .standard
  | .ldAIndDe => .standard
  | .ldHlIndNn _ => .standard
  | .ldAIndNn _ => .standard
  | .incSs _ => .standard
  | .decSs _ => .standard
  | .incR _ => .standard
  | .incIndHl => .standard
  | .decR _ => .standard
  | .decIndHl => .standard
  | .ldRN _ _ => .standard
  | .ldIndHlN _ => .standard
  | .rlca => .standard
  | .rrca => .standard
  | .rla => .standard
  | .rra => .standard
  | .daa => .standard
  | .cpl => .standard
  | .scf => .standard
  | .ccf => .standard
  | .halt => .standard
  | .ldIndHlR _ => .standard
  | .ldRIndHl _ => .standard
  | .ldRR _ _ => .standard
  | .addR _ => .standard
  | .addIndHl => .standard
  | .adcR _ => .standard
  | .adcIndHl => .standard
  | .subR _ => .standard
  | .subIndHl => .standard
  | .sbcR _ => .standard
  | .sbcIndHl => .standard
  | .andR _ => .standard
  | .andIndHl => .standard
  | .xorR _ => .standard
  | .xorIndHl => .standard
  | .orR _ => .standard
  | .orIndHl => .standard
  | .cpR _ => .standard
  | .cpIndHl => .standard
  | .retCc _ => .standard
  | .popQq _ => .standard
  | .ret => .standard
  | .exx => .standard
  | .jpIndHl => .standard
  | .ldSpHl => .standard
  | .jpCcNn _ _ => .standard
  | .jpNn _ => .standard
  | .prefixCb => .standard
  | .outIndNA _ => .standard
  | .inAIndN _ => .standard
  | .exIndSpHl => .standard
  | .exDeHl => .standard
  | .di => .standard
  | .ei => .standard
  | .callCcNn _ _ => .standard
  | .pushQq _ => .standard
  | .callNn _ => .standard
  | .prefixDd => .standard
  | .prefixEd => .standard
  | .prefixFd => .standard
  | .addN _ => .standard
  | .adcN _ => .standard
  | .subN _ => .standard
  | .sbcN _ => .standard
  | .andN _ => .standard
  | .xorN _ => .standard
  | .orN _ => .standard
  | .cpN _ => .standard
  | .rst _ => .standard
  | .rlcR _ => .bit
  | .rlcIndHl => .bit
  | .rrcR _ => .bit
  | .rrcIndHl => .bit
  | .rlR _ => .bit
  | .rlIndHl => .bit
  | .rrR _ => .bit
  | .rrIndHl => .bit
  | .slaR _ => .bit
  | .slaIndHl => .bit
  | .sraR _ => .bit
  | .sraIndHl => .bit
  | .sllR _ => .bit
  | .sllIndHl => .bit
  | .srlR _ => .bit
  | .srlIndHl => .bit
  | .bitR _ _ => .bit
  | .bitIndHl _ => .bit
  | .resR _ _ => .bit
  | .resIndHl _ => .bit
  | .setR _ _ => .bit
  | .setIndHl _ => .bit
  | .inRIndC _ => .extended
  | .inIndC => .extended
  | .outIndCR _ => .extended
  | .outIndC0 => .extended
  | .sbcHlSs _ => .extended
  | .adcHlSs _ => .extended
  | .ldIndNnDd _ _ => .extended
  | .ldDdIndNn _ _ => .extended
  | .neg _ => .extended
  | .retn _ => .extended
  | .reti => .extended
  | .im0 _ _ => .extended
  | .im1 _ => .extended
  | .im2 _ => .extended
  | .ldIA => .extended
  | .ldRA => .extended
  | .ldAI => .extended
  | .ldAR => .extended
  | .rrd => .extended
  | .rld => .extended
  | .ldi => .extended
  | .cpi => .extended
  | .ini => .extended
  | .outi => .extended
  | .ldd => .extended
  | .cpd => .extended
  | .ind => .extended
  | .outd => .extended
  | .ldir => .extended
  | .cpir => .extended
  | .inir => .extended
  | .otir => .extended
  | .lddr => .extended
  | .cpdr => .extended
  | .indr => .extended
  | .otdr => .extended
  | .edNop _ => .extended
  | .addXyPp xy _ => .indexed xy
  | .ldXyNn xy _ => .indexed xy
  | .ldIndNnXy xy _ => .indexed xy
  | .ldXyIndNn xy _ => .indexed xy
  | .incXy xy => .indexed xy
  | .decXy xy => .indexed xy
  | .incXyHalf xy _ => .indexed xy
  | .decXyHalf xy _ => .indexed xy
  | .ldXyHalfN xy _ _ => .indexed xy
  | .incIndXy xy _ => .indexed xy
  | .decIndXy xy _ => .indexed xy
  | .ldIndXyN xy _ _ => .indexed xy
  | .ldRIndXy xy _ _ => .indexed xy
  | .ldIndXyR xy _ _ => .indexed xy
  | .ldRRXy xy _ _ => .indexed xy
  | .addXyHalf xy _ => .indexed xy
  | .addIndXy xy _ => .indexed xy
  | .adcXyHalf xy _ => .indexed xy
  | .adcIndXy xy _ => .indexed xy
  | .subXyHalf xy _ => .indexed xy
  | .subIndXy xy _ => .indexed xy
  | .sbcXyHalf xy _ => .indexed xy
  | .sbcIndXy xy _ => .indexed xy
  | .andXyHalf xy _ => .indexed xy
  | .andIndXy xy _ => .indexed xy
  | .xorXyHalf xy _ => .indexed xy
  | .xorIndXy xy _ => .indexed xy
  | .orXyHalf xy _ => .indexed xy
  | .orIndXy xy _ => .indexed xy
  | .cpXyHalf xy _ => .indexed xy
  | .cpIndXy xy _ => .indexed xy
  | .indexedBit xy _ => .indexed xy
  | .popXy xy => .indexed xy
  | .pushXy xy => .indexed xy
  | .exIndSpXy xy => .indexed xy
  | .jpIndXy xy => .indexed xy
  | .ldSpXy xy => .indexed xy
  | .xyPrefixDd xy => .indexed xy
  | .xyPrefixFd xy => .indexed xy
  | .xyPrefixEd xy => .indexed xy
  | .xyStandard xy _ => .indexed xy
  | .rlcIndXy xy _ => .indexedBit xy
  | .rlcIndXyR xy _ _ => .indexedBit xy
  | .rrcIndXy xy _ => .indexedBit xy
  | .rrcIndXyR xy _ _ => .indexedBit xy
  | .rlIndXy xy _ => .indexedBit xy
  | .rlIndXyR xy _ _ => .indexedBit xy
  | .rrIndXy xy _ => .indexedBit xy
  | .rrIndXyR xy _ _ => .indexedBit xy
  | .slaIndXy xy _ => .indexedBit xy
  | .slaIndXyR xy _ _ => .indexedBit xy
  | .sraIndXy xy _ => .indexedBit xy
  | .sraIndXyR xy _ _ => .indexedBit xy
  | .sllIndXy xy _ => .indexedBit xy
  | .sllIndXyR xy _ _ => .indexedBit xy
  | .srlIndXy xy _ => .indexedBit xy
  | .srlIndXyR xy _ _ => .indexedBit xy
  | .bitIndXy xy _ _ _ => .indexedBit xy
  | .resIndXy xy _ _ => .indexedBit xy
  | .resIndXyR xy _ _ _ => .indexedBit xy
  | .setIndXy xy _ _ => .indexedBit xy
  | .setIndXyR xy _ _ _ => .indexedBit xy

/-- The register codes that name a half of the index register after a prefix (R114 item 3). -/
def Reg8.isHalf : Reg8 → Bool
  | .h | .l => true
  | .b | .c | .d | .e | .a => false

/-- The standard instructions an index prefix replaces (R114 items 1 to 3 and the prefix bytes); it leaves every other
standard instruction, `EX DE,HL`, `EXX` and `HALT` among them, as it is (items 4 and 5). -/
def Instr.replacedByIndex : Instr → Bool
  | .ldDdNn dd _ => dd = .hl
  | .incSs ss | .decSs ss => ss = .hl
  | .popQq qq | .pushQq qq => qq = .hl
  | .incR r | .decR r | .ldRN r _ => r.isHalf
  | .addR r | .adcR r | .subR r | .sbcR r | .andR r | .xorR r | .orR r | .cpR r => r.isHalf
  | .ldRR y z => y.isHalf || z.isHalf
  | .addHlSs _ | .ldIndNnHl _ | .ldHlIndNn _ | .incIndHl | .decIndHl | .ldIndHlN _ | .ldIndHlR _ | .ldRIndHl _ => true
  | .addIndHl | .adcIndHl | .subIndHl | .sbcIndHl | .andIndHl | .xorIndHl | .orIndHl | .cpIndHl => true
  | .exIndSpHl | .jpIndHl | .ldSpHl => true
  | .prefixCb | .prefixDd | .prefixEd | .prefixFd => true
  | _ => false

/-- The conditions `JR cc,e` can hold: codes 0 to 3 (R107, R384). -/
def Cond.isRelative : Cond → Bool
  | .nz | .z | .nc | .c => true
  | .po | .pe | .p | .m => false

/-- The slots of the extended table that are two-byte no-ops (R276). -/
def isExtendedNop (op : Byte) : Bool :=
  let n := op.toNat
  n < 0x40 || n = 0x77 || n = 0x7F || (0x80 ≤ n && n < 0xA0) || (0xA4 ≤ n && n < 0xA8) || (0xAC ≤ n && n < 0xB0) ||
    (0xB4 ≤ n && n < 0xB8) || 0xBC ≤ n

/-- The term is an instruction of the hardware: the constraints spec/opcode_table.json puts on the fields of its row. -/
def Instr.wf : Instr → Bool
  | .jrCc cc _ => cc.isRelative
  | .retn y => y != 1
  | .edNop op => isExtendedNop op
  | .ldRRXy _ y z => y.isHalf || z.isHalf
  | .xyStandard _ i => i.table = .standard && !i.replacedByIndex && i.wf
  | .indexedBit xy i => i.table = .indexedBit xy && i.wf
  | .nop | .exAfAf | .djnz _ | .jr _ | .ldDdNn _ _ | .addHlSs _ | .ldIndBcA | .ldIndDeA | .ldIndNnHl _ | .ldIndNnA _
  | .ldAIndBc | .ldAIndDe | .ldHlIndNn _ | .ldAIndNn _ | .incSs _ | .decSs _ | .incR _ | .incIndHl | .decR _
  | .decIndHl | .ldRN _ _ | .ldIndHlN _ | .rlca | .rrca | .rla | .rra | .daa | .cpl | .scf | .ccf | .halt
  | .ldIndHlR _ | .ldRIndHl _ | .ldRR _ _ | .addR _ | .addIndHl | .adcR _ | .adcIndHl | .subR _ | .subIndHl | .sbcR _
  | .sbcIndHl | .andR _ | .andIndHl | .xorR _ | .xorIndHl | .orR _ | .orIndHl | .cpR _ | .cpIndHl | .retCc _
  | .popQq _ | .ret | .exx | .jpIndHl | .ldSpHl | .jpCcNn _ _ | .jpNn _ | .prefixCb | .outIndNA _ | .inAIndN _
  | .exIndSpHl | .exDeHl | .di | .ei | .callCcNn _ _ | .pushQq _ | .callNn _ | .prefixDd | .prefixEd | .prefixFd
  | .addN _ | .adcN _ | .subN _ | .sbcN _ | .andN _ | .xorN _ | .orN _ | .cpN _ | .rst _ | .rlcR _ | .rlcIndHl
  | .rrcR _ | .rrcIndHl | .rlR _ | .rlIndHl | .rrR _ | .rrIndHl | .slaR _ | .slaIndHl | .sraR _ | .sraIndHl | .sllR _
  | .sllIndHl | .srlR _ | .srlIndHl | .bitR _ _ | .bitIndHl _ | .resR _ _ | .resIndHl _ | .setR _ _ | .setIndHl _
  | .inRIndC _ | .inIndC | .outIndCR _ | .outIndC0 | .sbcHlSs _ | .adcHlSs _ | .ldIndNnDd _ _ | .ldDdIndNn _ _
  | .neg _ | .reti | .im0 _ _ | .im1 _ | .im2 _ | .ldIA | .ldRA | .ldAI | .ldAR | .rrd | .rld | .ldi | .cpi | .ini
  | .outi | .ldd | .cpd | .ind | .outd | .ldir | .cpir | .inir | .otir | .lddr | .cpdr | .indr | .otdr | .addXyPp _ _
  | .ldXyNn _ _ | .ldIndNnXy _ _ | .ldXyIndNn _ _ | .incXy _ | .decXy _ | .incXyHalf _ _ | .decXyHalf _ _
  | .ldXyHalfN _ _ _ | .incIndXy _ _ | .decIndXy _ _ | .ldIndXyN _ _ _ | .ldRIndXy _ _ _ | .ldIndXyR _ _ _
  | .addXyHalf _ _ | .addIndXy _ _ | .adcXyHalf _ _ | .adcIndXy _ _ | .subXyHalf _ _ | .subIndXy _ _ | .sbcXyHalf _ _
  | .sbcIndXy _ _ | .andXyHalf _ _ | .andIndXy _ _ | .xorXyHalf _ _ | .xorIndXy _ _ | .orXyHalf _ _ | .orIndXy _ _
  | .cpXyHalf _ _ | .cpIndXy _ _ | .popXy _ | .pushXy _ | .exIndSpXy _ | .jpIndXy _ | .ldSpXy _ | .xyPrefixDd _
  | .xyPrefixFd _ | .xyPrefixEd _ | .rlcIndXy _ _ | .rlcIndXyR _ _ _ | .rrcIndXy _ _ | .rrcIndXyR _ _ _
  | .rlIndXy _ _ | .rlIndXyR _ _ _ | .rrIndXy _ _ | .rrIndXyR _ _ _ | .slaIndXy _ _ | .slaIndXyR _ _ _
  | .sraIndXy _ _ | .sraIndXyR _ _ _ | .sllIndXy _ _ | .sllIndXyR _ _ _ | .srlIndXy _ _ | .srlIndXyR _ _ _
  | .bitIndXy _ _ _ _ | .resIndXy _ _ _ | .resIndXyR _ _ _ _ | .setIndXy _ _ _ | .setIndXyR _ _ _ _ => true

/-- The rows that are a prefix byte: their step completes no instruction (R112, R113, R117). -/
def Instr.isPrefix : Instr → Bool
  | .prefixCb | .prefixDd | .prefixEd | .prefixFd | .xyPrefixDd _ | .xyPrefixFd _ | .xyPrefixEd _ => true
  | _ => false

/-- The instruction whose handler a term runs: that of the table the term hands over to (R114 item 5, R115). -/
def Instr.handler : Instr → Instr
  | .xyStandard _ i => i
  | .indexedBit _ i => i
  | i => i

end Sys2Proof
end

