-- ==== Sys2Proof/Decode.lean ====
section
/-! DEFINITION. The decoder (30_encoding.md R100 to R128), total on any bytes, and after it the encoder, written from the
same tables. Every byte value is a slot of every table (R100, R123), so decoding rejects a byte string only because it
ends too early, and says so by name (`Decoded.truncated`). -/

namespace Sys2Proof

/-! ### Field codes (R104 to R107) -/

/-- Register code `r` (R104); code 6 is the memory operand, not a register. -/
def regOfCode : Nat → Option Reg8
  | 0 => some .b
  | 1 => some .c
  | 2 => some .d
  | 3 => some .e
  | 4 => some .h
  | 5 => some .l
  | 7 => some .a
  | _ => none

/-- Pair code `dd`/`ss` (R105). -/
def pairOfCode : Nat → Pair
  | 0 => .bc
  | 1 => .de
  | 2 => .hl
  | _ => .sp

/-- Pair code `qq` (R106). -/
def stackPairOfCode : Nat → StackPair
  | 0 => .bc
  | 1 => .de
  | 2 => .hl
  | _ => .af

/-- Condition code `cc` (R107). -/
def condOfCode : Nat → Cond
  | 0 => .nz
  | 1 => .z
  | 2 => .nc
  | 3 => .c
  | 4 => .po
  | 5 => .pe
  | 6 => .p
  | _ => .m

/-! ### The standard table (R119) -/

/-- Standard table, `x = 0` (R119); `a`, `b` are the two bytes after the opcode byte. -/
def decodeStandard0 (y z : Nat) (a b : Byte) : Instr :=
  let p := y / 2
  let q := y % 2
  match z with
  | 0 =>
    match y with
    | 0 => .nop
    | 1 => .exAfAf
    | 2 => .djnz a
    | 3 => .jr a
    | _ => .jrCc (condOfCode (y - 4)) a
  | 1 => if q = 0 then .ldDdNn (pairOfCode p) (immediate16 a b) else .addHlSs (pairOfCode p)
  | 2 =>
    match y with
    | 0 => .ldIndBcA
    | 1 => .ldAIndBc
    | 2 => .ldIndDeA
    | 3 => .ldAIndDe
    | 4 => .ldIndNnHl (immediate16 a b)
    | 5 => .ldHlIndNn (immediate16 a b)
    | 6 => .ldIndNnA (immediate16 a b)
    | _ => .ldAIndNn (immediate16 a b)
  | 3 => if q = 0 then .incSs (pairOfCode p) else .decSs (pairOfCode p)
  | 4 =>
    match regOfCode y with
    | some r => .incR r
    | none => .incIndHl
  | 5 =>
    match regOfCode y with
    | some r => .decR r
    | none => .decIndHl
  | 6 =>
    match regOfCode y with
    | some r => .ldRN r a
    | none => .ldIndHlN a
  | _ =>
    match y with
    | 0 => .rlca
    | 1 => .rrca
    | 2 => .rla
    | 3 => .rra
    | 4 => .daa
    | 5 => .cpl
    | 6 => .scf
    | _ => .ccf

/-- Standard table, `x = 1`: the register loads and `HALT` (R119). -/
def decodeStandard1 (y z : Nat) : Instr :=
  match regOfCode y, regOfCode z with
  | none, none => .halt
  | none, some r => .ldIndHlR r
  | some r, none => .ldRIndHl r
  | some r, some r' => .ldRR r r'

/-- Standard table, `x = 2`: `alu[y]` with operand `r[z]` or `(HL)` (R108, R119). -/
def decodeStandard2 (y z : Nat) : Instr :=
  match regOfCode z with
  | some r =>
    match y with
    | 0 => .addR r
    | 1 => .adcR r
    | 2 => .subR r
    | 3 => .sbcR r
    | 4 => .andR r
    | 5 => .xorR r
    | 6 => .orR r
    | _ => .cpR r
  | none =>
    match y with
    | 0 => .addIndHl
    | 1 => .adcIndHl
    | 2 => .subIndHl
    | 3 => .sbcIndHl
    | 4 => .andIndHl
    | 5 => .xorIndHl
    | 6 => .orIndHl
    | _ => .cpIndHl

/-- The operation `alu[y] n` with an immediate (R108, R119 `x = 3`, `z = 6`). -/
def decodeAluN (y : Nat) (n : Byte) : Instr :=
  match y with
  | 0 => .addN n
  | 1 => .adcN n
  | 2 => .subN n
  | 3 => .sbcN n
  | 4 => .andN n
  | 5 => .xorN n
  | 6 => .orN n
  | _ => .cpN n

/-- Standard table, `x = 3` (R119). -/
def decodeStandard3 (y z : Nat) (a b : Byte) : Instr :=
  let p := y / 2
  let q := y % 2
  match z with
  | 0 => .retCc (condOfCode y)
  | 1 =>
    if q = 0 then .popQq (stackPairOfCode p)
    else
      match p with
      | 0 => .ret
      | 1 => .exx
      | 2 => .jpIndHl
      | _ => .ldSpHl
  | 2 => .jpCcNn (condOfCode y) (immediate16 a b)
  | 3 =>
    match y with
    | 0 => .jpNn (immediate16 a b)
    | 1 => .prefixCb
    | 2 => .outIndNA a
    | 3 => .inAIndN a
    | 4 => .exIndSpHl
    | 5 => .exDeHl
    | 6 => .di
    | _ => .ei
  | 4 => .callCcNn (condOfCode y) (immediate16 a b)
  | 5 =>
    if q = 0 then .pushQq (stackPairOfCode p)
    else
      match p with
      | 0 => .callNn (immediate16 a b)
      | 1 => .prefixDd
      | 2 => .prefixEd
      | _ => .prefixFd
  | 6 => decodeAluN y a
  | _ => .rst (BitVec.ofNat 3 y)

/-- The standard table (R119): opcode byte `op`, then `a`, `b`. -/
def decodeStandard (op a b : Byte) : Instr :=
  match fieldX op with
  | 0 => decodeStandard0 (fieldY op) (fieldZ op) a b
  | 1 => decodeStandard1 (fieldY op) (fieldZ op)
  | 2 => decodeStandard2 (fieldY op) (fieldZ op)
  | _ => decodeStandard3 (fieldY op) (fieldZ op) a b

/-! ### The bit table (R120) and the indexed-bit table (R125) -/

/-- The bit table (R120). -/
def decodeBit (op : Byte) : Instr :=
  let y := fieldY op
  let b := BitVec.ofNat 3 y
  match fieldX op, regOfCode (fieldZ op) with
  | 0, some r =>
    match y with
    | 0 => .rlcR r
    | 1 => .rrcR r
    | 2 => .rlR r
    | 3 => .rrR r
    | 4 => .slaR r
    | 5 => .sraR r
    | 6 => .sllR r
    | _ => .srlR r
  | 0, none =>
    match y with
    | 0 => .rlcIndHl
    | 1 => .rrcIndHl
    | 2 => .rlIndHl
    | 3 => .rrIndHl
    | 4 => .slaIndHl
    | 5 => .sraIndHl
    | 6 => .sllIndHl
    | _ => .srlIndHl
  | 1, some r => .bitR b r
  | 1, none => .bitIndHl b
  | 2, some r => .resR b r
  | 2, none => .resIndHl b
  | _, some r => .setR b r
  | _, none => .setIndHl b

/-- The indexed-bit table (R125): displacement `d`, then opcode byte `op`. -/
def decodeIndexedBit (xy : IndexReg) (d op : Byte) : Instr :=
  let y := fieldY op
  let b := BitVec.ofNat 3 y
  match fieldX op, regOfCode (fieldZ op) with
  | 0, some r =>
    match y with
    | 0 => .rlcIndXyR xy d r
    | 1 => .rrcIndXyR xy d r
    | 2 => .rlIndXyR xy d r
    | 3 => .rrIndXyR xy d r
    | 4 => .slaIndXyR xy d r
    | 5 => .sraIndXyR xy d r
    | 6 => .sllIndXyR xy d r
    | _ => .srlIndXyR xy d r
  | 0, none =>
    match y with
    | 0 => .rlcIndXy xy d
    | 1 => .rrcIndXy xy d
    | 2 => .rlIndXy xy d
    | 3 => .rrIndXy xy d
    | 4 => .slaIndXy xy d
    | 5 => .sraIndXy xy d
    | 6 => .sllIndXy xy d
    | _ => .srlIndXy xy d
  | 1, _ => .bitIndXy xy b d (BitVec.ofNat 3 (fieldZ op))
  | 2, some r => .resIndXyR xy b d r
  | 2, none => .resIndXy xy b d
  | _, some r => .setIndXyR xy b d r
  | _, none => .setIndXy xy b d

/-! ### The extended table (R121, R127, R128) -/

/-- Extended table, `x = 1` (R121, R128); `77` and `7F` are no-ops. -/
def decodeExtended1 (op a b : Byte) : Instr :=
  let y := fieldY op
  let p := y / 2
  let q := y % 2
  match fieldZ op with
  | 0 =>
    match regOfCode y with
    | some r => .inRIndC r
    | none => .inIndC
  | 1 =>
    match regOfCode y with
    | some r => .outIndCR r
    | none => .outIndC0
  | 2 => if q = 0 then .sbcHlSs (pairOfCode p) else .adcHlSs (pairOfCode p)
  | 3 => if q = 0 then .ldIndNnDd (pairOfCode p) (immediate16 a b) else .ldDdIndNn (pairOfCode p) (immediate16 a b)
  | 4 => .neg (BitVec.ofNat 3 y)
  | 5 => if y = 1 then .reti else .retn (BitVec.ofNat 3 y)
  | 6 =>
    match y % 4 with
    | 2 => .im1 (op.getLsbD 5)
    | 3 => .im2 (op.getLsbD 5)
    | _ => .im0 (op.getLsbD 5) (op.getLsbD 3)
  | _ =>
    match y with
    | 0 => .ldIA
    | 1 => .ldRA
    | 2 => .ldAI
    | 3 => .ldAR
    | 4 => .rrd
    | 5 => .rld
    | _ => .edNop op

/-- Extended table, `x = 2`: the block instructions (R121). -/
def decodeExtended2 (op : Byte) : Instr :=
  match fieldY op, fieldZ op with
  | 4, 0 => .ldi
  | 4, 1 => .cpi
  | 4, 2 => .ini
  | 4, 3 => .outi
  | 5, 0 => .ldd
  | 5, 1 => .cpd
  | 5, 2 => .ind
  | 5, 3 => .outd
  | 6, 0 => .ldir
  | 6, 1 => .cpir
  | 6, 2 => .inir
  | 6, 3 => .otir
  | 7, 0 => .lddr
  | 7, 1 => .cpdr
  | 7, 2 => .indr
  | 7, 3 => .otdr
  | _, _ => .edNop op

/-- The extended table (R121): opcode byte `op`, then `a`, `b`. -/
def decodeExtended (op a b : Byte) : Instr :=
  match fieldX op with
  | 1 => decodeExtended1 op a b
  | 2 => decodeExtended2 op
  | _ => .edNop op

/-! ### The indexed table (R114, R115, R124) -/

/-- Pair code `pp`/`rr`: the pair `HL` of the standard instruction becomes the index register (R105). -/
def IndexedPair.ofPair : Pair → IndexedPair
  | .bc => .bc
  | .de => .de
  | .hl => .xy
  | .sp => .sp

/-- Rule R114: what an index prefix makes of a standard instruction; `a`, `b` are the two bytes after the opcode byte
(a displacement comes first, before an immediate). -/
def indexedForm (xy : IndexReg) (a b : Byte) : Instr → Instr
  | .addHlSs ss => .addXyPp xy (.ofPair ss)
  | .ldDdNn .hl nn => .ldXyNn xy nn
  | .ldIndNnHl nn => .ldIndNnXy xy nn
  | .ldHlIndNn nn => .ldXyIndNn xy nn
  | .incSs .hl => .incXy xy
  | .decSs .hl => .decXy xy
  | .incR .h => .incXyHalf xy .high
  | .incR .l => .incXyHalf xy .low
  | .decR .h => .decXyHalf xy .high
  | .decR .l => .decXyHalf xy .low
  | .ldRN .h n => .ldXyHalfN xy .high n
  | .ldRN .l n => .ldXyHalfN xy .low n
  | .incIndHl => .incIndXy xy a
  | .decIndHl => .decIndXy xy a
  | .ldIndHlN _ => .ldIndXyN xy a b
  | .ldRIndHl r => .ldRIndXy xy r a
  | .ldIndHlR r => .ldIndXyR xy a r
  | .ldRR y z => if y.isHalf || z.isHalf then .ldRRXy xy y z else .xyStandard xy (.ldRR y z)
  | .addR .h => .addXyHalf xy .high
  | .addR .l => .addXyHalf xy .low
  | .addIndHl => .addIndXy xy a
  | .adcR .h => .adcXyHalf xy .high
  | .adcR .l => .adcXyHalf xy .low
  | .adcIndHl => .adcIndXy xy a
  | .subR .h => .subXyHalf xy .high
  | .subR .l => .subXyHalf xy .low
  | .subIndHl => .subIndXy xy a
  | .sbcR .h => .sbcXyHalf xy .high
  | .sbcR .l => .sbcXyHalf xy .low
  | .sbcIndHl => .sbcIndXy xy a
  | .andR .h => .andXyHalf xy .high
  | .andR .l => .andXyHalf xy .low
  | .andIndHl => .andIndXy xy a
  | .xorR .h => .xorXyHalf xy .high
  | .xorR .l => .xorXyHalf xy .low
  | .xorIndHl => .xorIndXy xy a
  | .orR .h => .orXyHalf xy .high
  | .orR .l => .orXyHalf xy .low
  | .orIndHl => .orIndXy xy a
  | .cpR .h => .cpXyHalf xy .high
  | .cpR .l => .cpXyHalf xy .low
  | .cpIndHl => .cpIndXy xy a
  | .popQq .hl => .popXy xy
  | .pushQq .hl => .pushXy xy
  | .exIndSpHl => .exIndSpXy xy
  | .jpIndHl => .jpIndXy xy
  | .ldSpHl => .ldSpXy xy
  | .prefixCb => .indexedBit xy (decodeIndexedBit xy a b)
  | .prefixDd => .xyPrefixDd xy
  | .prefixFd => .xyPrefixFd xy
  | .prefixEd => .xyPrefixEd xy
  | i => .xyStandard xy i

/-- The indexed table (R124): the standard table under rule R114. -/
def decodeIndexed (xy : IndexReg) (op a b : Byte) : Instr := indexedForm xy a b (decodeStandard op a b)

/-! ### Decoding bytes -/

/-- The slot of table `t` that the bytes `op`, `a`, `b` select; every byte value is a slot (R100). In the indexed-bit
table the displacement comes before the opcode byte (R100, R115). -/
def decodeSlot (t : Table) (op a b : Byte) : Instr :=
  match t with
  | .standard => decodeStandard op a b
  | .bit => decodeBit op
  | .extended => decodeExtended op a b
  | .indexed xy => decodeIndexed xy op a b
  | .indexedBit xy => decodeIndexedBit xy op a

/-- How many bytes follow the first byte of the instruction's slot: its operand bytes (R102, R103) and, in the
indexed-bit format, the displacement and opcode bytes (R115). The length never depends on an operand byte (R103). -/
def Instr.operandBytes : Instr → Nat
  | .xyStandard _ i => i.operandBytes
  | .ldDdNn _ _ | .ldIndNnHl _ | .ldIndNnA _ | .ldHlIndNn _ | .ldAIndNn _ | .jpCcNn _ _ | .jpNn _ | .callCcNn _ _
  | .callNn _ | .ldIndNnDd _ _ | .ldDdIndNn _ _ | .ldXyNn _ _ | .ldIndNnXy _ _ | .ldXyIndNn _ _ | .ldIndXyN _ _ _
  | .indexedBit _ _ => 2
  | .djnz _ | .jr _ | .jrCc _ _ | .ldRN _ _ | .ldIndHlN _ | .outIndNA _ | .inAIndN _ | .addN _ | .adcN _ | .subN _
  | .sbcN _ | .andN _ | .xorN _ | .orN _ | .cpN _ | .ldXyHalfN _ _ _ | .incIndXy _ _ | .decIndXy _ _
  | .ldRIndXy _ _ _ | .ldIndXyR _ _ _ | .addIndXy _ _ | .adcIndXy _ _ | .subIndXy _ _ | .sbcIndXy _ _ | .andIndXy _ _
  | .xorIndXy _ _ | .orIndXy _ _ | .cpIndXy _ _ | .rlcIndXy _ _ | .rlcIndXyR _ _ _ | .rrcIndXy _ _ | .rrcIndXyR _ _ _
  | .rlIndXy _ _ | .rlIndXyR _ _ _ | .rrIndXy _ _ | .rrIndXyR _ _ _ | .slaIndXy _ _ | .slaIndXyR _ _ _
  | .sraIndXy _ _ | .sraIndXyR _ _ _ | .sllIndXy _ _ | .sllIndXyR _ _ _ | .srlIndXy _ _ | .srlIndXyR _ _ _
  | .bitIndXy _ _ _ _ | .resIndXy _ _ _ | .resIndXyR _ _ _ _ | .setIndXy _ _ _ | .setIndXyR _ _ _ _ => 1
  | .nop | .exAfAf | .addHlSs _ | .ldIndBcA | .ldIndDeA | .ldAIndBc | .ldAIndDe | .incSs _ | .decSs _ | .incR _
  | .incIndHl | .decR _ | .decIndHl | .rlca | .rrca | .rla | .rra | .daa | .cpl | .scf | .ccf | .halt | .ldIndHlR _
  | .ldRIndHl _ | .ldRR _ _ | .addR _ | .addIndHl | .adcR _ | .adcIndHl | .subR _ | .subIndHl | .sbcR _ | .sbcIndHl
  | .andR _ | .andIndHl | .xorR _ | .xorIndHl | .orR _ | .orIndHl | .cpR _ | .cpIndHl | .retCc _ | .popQq _ | .ret
  | .exx | .jpIndHl | .ldSpHl | .prefixCb | .exIndSpHl | .exDeHl | .di | .ei | .pushQq _ | .prefixDd | .prefixEd
  | .prefixFd | .rst _ | .rlcR _ | .rlcIndHl | .rrcR _ | .rrcIndHl | .rlR _ | .rlIndHl | .rrR _ | .rrIndHl | .slaR _
  | .slaIndHl | .sraR _ | .sraIndHl | .sllR _ | .sllIndHl | .srlR _ | .srlIndHl | .bitR _ _ | .bitIndHl _ | .resR _ _
  | .resIndHl _ | .setR _ _ | .setIndHl _ | .inRIndC _ | .inIndC | .outIndCR _ | .outIndC0 | .sbcHlSs _ | .adcHlSs _
  | .neg _ | .retn _ | .reti | .im0 _ _ | .im1 _ | .im2 _ | .ldIA | .ldRA | .ldAI | .ldAR | .rrd | .rld | .ldi | .cpi
  | .ini | .outi | .ldd | .cpd | .ind | .outd | .ldir | .cpir | .inir | .otir | .lddr | .cpdr | .indr | .otdr
  | .edNop _ | .addXyPp _ _ | .incXy _ | .decXy _ | .incXyHalf _ _ | .decXyHalf _ _ | .ldRRXy _ _ _ | .addXyHalf _ _
  | .adcXyHalf _ _ | .subXyHalf _ _ | .sbcXyHalf _ _ | .andXyHalf _ _ | .xorXyHalf _ _ | .orXyHalf _ _
  | .cpXyHalf _ _ | .popXy _ | .pushXy _ | .exIndSpXy _ | .jpIndXy _ | .ldSpXy _ | .xyPrefixDd _ | .xyPrefixFd _
  | .xyPrefixEd _ => 0

/-- What decoding a byte string gives: an instruction and the bytes after it, or that the string ends too early. -/
inductive Decoded where
  | instr (i : Instr) (rest : List Byte)
  | truncated
  deriving DecidableEq, Repr

/-- Decode one slot of table `t` from a byte string: what one fetch step of the core reads (R110). -/
def decode (t : Table) : List Byte → Decoded
  | [] => .truncated
  | op :: rest =>
    let i := decodeSlot t op (rest.getD 0 0) (rest.getD 1 0)
    if rest.length < i.operandBytes then .truncated else .instr i (rest.drop i.operandBytes)

/-- The table the first byte of an instruction is looked up in, given the index prefix remembered (R110, R126). -/
def tableOfIndex : Option IndexReg → Table
  | none => .standard
  | some xy => .indexed xy

/-- Rule R126: the table that the prefix bytes of a whole instruction select, and the bytes from its slot on; `index` is the
index prefix remembered so far. -/
def tableSlot (index : Option IndexReg) : List Byte → Table × List Byte
  | [] => (tableOfIndex index, [])
  | op :: rest =>
    if op = 0xDD then tableSlot (some .ix) rest
    else if op = 0xFD then tableSlot (some .iy) rest
    else if op = 0xED then (.extended, rest)
    else if op = 0xCB && index = none then (.bit, rest)
    else (tableOfIndex index, op :: rest)

/-- Rule R126: decoding a whole instruction, prefix bytes included, from a byte string. -/
def decodeString (index : Option IndexReg) (bs : List Byte) : Decoded :=
  decode (tableSlot index bs).1 (tableSlot index bs).2

/-- Byte `k` of a number whose byte 0 is the first byte of the instruction. -/
def tableByte (w k : Nat) : Byte := BitVec.ofNat 8 (w / 256 ^ k)

/-- The bytes of an instruction whose bits, numbered as spec/opcode_table.json numbers them, are the low `nbits` of `w`;
every byte above is zero, up to the four bytes of the longest instruction (R103). -/
def tableBytes (nbits w : Nat) : List Byte :=
  [tableByte (w % 2 ^ nbits) 0, tableByte (w % 2 ^ nbits) 1, tableByte (w % 2 ^ nbits) 2, tableByte (w % 2 ^ nbits) 3]

/-- The table and the bytes of the slot of a table word. A word of 8 bits is an opcode byte of the standard table, which is
the table that is read when no prefix is pending (after reset none is): spec/opcode_table.json numbers the bits of the opcode
byte alone, without the row's prefix bytes (assumption log 12). A longer word is a whole instruction, prefix bytes included. -/
def tableWordSlot (nbits w : Nat) : Table × List Byte :=
  if nbits ≤ 8 then (.standard, tableBytes nbits w) else tableSlot none (tableBytes nbits w)

/-- The instruction the fetch step that completes a table word reads from it. -/
def decodeTableWord (nbits w : Nat) : Option Instr :=
  match decode (tableWordSlot nbits w).1 (tableWordSlot nbits w).2 with
  | .instr i _ => some i
  | .truncated => none

/-! ### The encoder -/

/-- Register code (R104). -/
def Reg8.code : Reg8 → Byte
  | .b => 0
  | .c => 1
  | .d => 2
  | .e => 3
  | .h => 4
  | .l => 5
  | .a => 7

/-- Pair code (R105). -/
def Pair.code : Pair → Byte
  | .bc => 0
  | .de => 1
  | .hl => 2
  | .sp => 3

/-- Pair code of `PUSH` and `POP` (R106). -/
def StackPair.code : StackPair → Byte
  | .bc => 0
  | .de => 1
  | .hl => 2
  | .af => 3

/-- Pair code after an index prefix (R105). -/
def IndexedPair.code : IndexedPair → Byte
  | .bc => 0
  | .de => 1
  | .xy => 2
  | .sp => 3

/-- Condition code (R107). -/
def Cond.code : Cond → Byte
  | .nz => 0
  | .z => 1
  | .nc => 2
  | .c => 3
  | .po => 4
  | .pe => 5
  | .p => 6
  | .m => 7

/-- The register code of a half of the index register: 4 or 5 (R114 item 3). -/
def Half.code : Half → Byte
  | .high => 4
  | .low => 5

/-- A bit number or a 3-bit field as a byte (R109). -/
def code3 (b : BitVec 3) : Byte := b.setWidth 8

/-- A one-bit field of an opcode byte. -/
def code1 (on : Bool) (mask : Byte) : Byte := flagIf on mask

/-- The bytes one completing fetch step reads for an instruction: the opcode byte and its operand bytes in fetch order,
without the prefix bytes of earlier steps (R100 to R109, R119 to R125). -/
def encodeSlot : Instr → List Byte
  | .nop => [0x00]
  | .exAfAf => [0x08]
  | .djnz e => [0x10, e]
  | .jr e => [0x18, e]
  | .jrCc cc e => [withY 0x20 cc.code, e]
  | .ldDdNn dd nn => (withP 0x01 dd.code) :: operandBytes16 nn
  | .addHlSs ss => [withP 0x09 ss.code]
  | .ldIndBcA => [0x02]
  | .ldIndDeA => [0x12]
  | .ldIndNnHl nn => 0x22 :: operandBytes16 nn
  | .ldIndNnA nn => 0x32 :: operandBytes16 nn
  | .ldAIndBc => [0x0A]
  | .ldAIndDe => [0x1A]
  | .ldHlIndNn nn => 0x2A :: operandBytes16 nn
  | .ldAIndNn nn => 0x3A :: operandBytes16 nn
  | .incSs ss => [withP 0x03 ss.code]
  | .decSs ss => [withP 0x0B ss.code]
  | .incR r => [withY 0x04 r.code]
  | .incIndHl => [0x34]
  | .decR r => [withY 0x05 r.code]
  | .decIndHl => [0x35]
  | .ldRN r n => [withY 0x06 r.code, n]
  | .ldIndHlN n => [0x36, n]
  | .rlca => [0x07]
  | .rrca => [0x0F]
  | .rla => [0x17]
  | .rra => [0x1F]
  | .daa => [0x27]
  | .cpl => [0x2F]
  | .scf => [0x37]
  | .ccf => [0x3F]
  | .halt => [0x76]
  | .ldIndHlR r => [withZ 0x70 r.code]
  | .ldRIndHl r => [withY 0x46 r.code]
  | .ldRR y z => [withZ (withY 0x40 y.code) z.code]
  | .addR r => [withZ 0x80 r.code]
  | .addIndHl => [0x86]
  | .adcR r => [withZ 0x88 r.code]
  | .adcIndHl => [0x8E]
  | .subR r => [withZ 0x90 r.code]
  | .subIndHl => [0x96]
  | .sbcR r => [withZ 0x98 r.code]
  | .sbcIndHl => [0x9E]
  | .andR r => [withZ 0xA0 r.code]
  | .andIndHl => [0xA6]
  | .xorR r => [withZ 0xA8 r.code]
  | .xorIndHl => [0xAE]
  | .orR r => [withZ 0xB0 r.code]
  | .orIndHl => [0xB6]
  | .cpR r => [withZ 0xB8 r.code]
  | .cpIndHl => [0xBE]
  | .retCc cc => [withY 0xC0 cc.code]
  | .popQq qq => [withP 0xC1 qq.code]
  | .ret => [0xC9]
  | .exx => [0xD9]
  | .jpIndHl => [0xE9]
  | .ldSpHl => [0xF9]
  | .jpCcNn cc nn => (withY 0xC2 cc.code) :: operandBytes16 nn
  | .jpNn nn => 0xC3 :: operandBytes16 nn
  | .prefixCb => [0xCB]
  | .outIndNA n => [0xD3, n]
  | .inAIndN n => [0xDB, n]
  | .exIndSpHl => [0xE3]
  | .exDeHl => [0xEB]
  | .di => [0xF3]
  | .ei => [0xFB]
  | .callCcNn cc nn => (withY 0xC4 cc.code) :: operandBytes16 nn
  | .pushQq qq => [withP 0xC5 qq.code]
  | .callNn nn => 0xCD :: operandBytes16 nn
  | .prefixDd => [0xDD]
  | .prefixEd => [0xED]
  | .prefixFd => [0xFD]
  | .addN n => [0xC6, n]
  | .adcN n => [0xCE, n]
  | .subN n => [0xD6, n]
  | .sbcN n => [0xDE, n]
  | .andN n => [0xE6, n]
  | .xorN n => [0xEE, n]
  | .orN n => [0xF6, n]
  | .cpN n => [0xFE, n]
  | .rst p => [withY 0xC7 (code3 p)]
  | .rlcR r => [withZ 0x00 r.code]
  | .rlcIndHl => [0x06]
  | .rrcR r => [withZ 0x08 r.code]
  | .rrcIndHl => [0x0E]
  | .rlR r => [withZ 0x10 r.code]
  | .rlIndHl => [0x16]
  | .rrR r => [withZ 0x18 r.code]
  | .rrIndHl => [0x1E]
  | .slaR r => [withZ 0x20 r.code]
  | .slaIndHl => [0x26]
  | .sraR r => [withZ 0x28 r.code]
  | .sraIndHl => [0x2E]
  | .sllR r => [withZ 0x30 r.code]
  | .sllIndHl => [0x36]
  | .srlR r => [withZ 0x38 r.code]
  | .srlIndHl => [0x3E]
  | .bitR b r => [withZ (withY 0x40 (code3 b)) r.code]
  | .bitIndHl b => [withY 0x46 (code3 b)]
  | .resR b r => [withZ (withY 0x80 (code3 b)) r.code]
  | .resIndHl b => [withY 0x86 (code3 b)]
  | .setR b r => [withZ (withY 0xC0 (code3 b)) r.code]
  | .setIndHl b => [withY 0xC6 (code3 b)]
  | .inRIndC r => [withY 0x40 r.code]
  | .inIndC => [0x70]
  | .outIndCR r => [withY 0x41 r.code]
  | .outIndC0 => [0x71]
  | .sbcHlSs ss => [withP 0x42 ss.code]
  | .adcHlSs ss => [withP 0x4A ss.code]
  | .ldIndNnDd dd nn => (withP 0x43 dd.code) :: operandBytes16 nn
  | .ldDdIndNn dd nn => (withP 0x4B dd.code) :: operandBytes16 nn
  | .neg y => [withY 0x44 (code3 y)]
  | .retn y => [withY 0x45 (code3 y)]
  | .reti => [0x4D]
  | .im0 u v => [0x46 ||| code1 u 0x20 ||| code1 v 0x08]
  | .im1 u => [0x56 ||| code1 u 0x20]
  | .im2 u => [0x5E ||| code1 u 0x20]
  | .ldIA => [0x47]
  | .ldRA => [0x4F]
  | .ldAI => [0x57]
  | .ldAR => [0x5F]
  | .rrd => [0x67]
  | .rld => [0x6F]
  | .ldi => [0xA0]
  | .cpi => [0xA1]
  | .ini => [0xA2]
  | .outi => [0xA3]
  | .ldd => [0xA8]
  | .cpd => [0xA9]
  | .ind => [0xAA]
  | .outd => [0xAB]
  | .ldir => [0xB0]
  | .cpir => [0xB1]
  | .inir => [0xB2]
  | .otir => [0xB3]
  | .lddr => [0xB8]
  | .cpdr => [0xB9]
  | .indr => [0xBA]
  | .otdr => [0xBB]
  | .edNop op => [op]
  | .addXyPp _ pp => [withP 0x09 pp.code]
  | .ldXyNn _ nn => 0x21 :: operandBytes16 nn
  | .ldIndNnXy _ nn => 0x22 :: operandBytes16 nn
  | .ldXyIndNn _ nn => 0x2A :: operandBytes16 nn
  | .incXy _ => [0x23]
  | .decXy _ => [0x2B]
  | .incXyHalf _ h => [withY 0x04 h.code]
  | .decXyHalf _ h => [withY 0x05 h.code]
  | .ldXyHalfN _ h n => [withY 0x06 h.code, n]
  | .incIndXy _ d => [0x34, d]
  | .decIndXy _ d => [0x35, d]
  | .ldIndXyN _ d n => [0x36, d, n]
  | .ldRIndXy _ r d => [withY 0x46 r.code, d]
  | .ldIndXyR _ d r => [withZ 0x70 r.code, d]
  | .ldRRXy _ y z => [withZ (withY 0x40 y.code) z.code]
  | .addXyHalf _ h => [withZ 0x80 h.code]
  | .addIndXy _ d => [0x86, d]
  | .adcXyHalf _ h => [withZ 0x88 h.code]
  | .adcIndXy _ d => [0x8E, d]
  | .subXyHalf _ h => [withZ 0x90 h.code]
  | .subIndXy _ d => [0x96, d]
  | .sbcXyHalf _ h => [withZ 0x98 h.code]
  | .sbcIndXy _ d => [0x9E, d]
  | .andXyHalf _ h => [withZ 0xA0 h.code]
  | .andIndXy _ d => [0xA6, d]
  | .xorXyHalf _ h => [withZ 0xA8 h.code]
  | .xorIndXy _ d => [0xAE, d]
  | .orXyHalf _ h => [withZ 0xB0 h.code]
  | .orIndXy _ d => [0xB6, d]
  | .cpXyHalf _ h => [withZ 0xB8 h.code]
  | .cpIndXy _ d => [0xBE, d]
  | .indexedBit _ i => 0xCB :: encodeSlot i
  | .popXy _ => [0xE1]
  | .pushXy _ => [0xE5]
  | .exIndSpXy _ => [0xE3]
  | .jpIndXy _ => [0xE9]
  | .ldSpXy _ => [0xF9]
  | .xyPrefixDd _ => [0xDD]
  | .xyPrefixFd _ => [0xFD]
  | .xyPrefixEd _ => [0xED]
  | .xyStandard _ i => encodeSlot i
  | .rlcIndXy _ d => [d, 0x06]
  | .rlcIndXyR _ d r => [d, withZ 0x00 r.code]
  | .rrcIndXy _ d => [d, 0x0E]
  | .rrcIndXyR _ d r => [d, withZ 0x08 r.code]
  | .rlIndXy _ d => [d, 0x16]
  | .rlIndXyR _ d r => [d, withZ 0x10 r.code]
  | .rrIndXy _ d => [d, 0x1E]
  | .rrIndXyR _ d r => [d, withZ 0x18 r.code]
  | .slaIndXy _ d => [d, 0x26]
  | .slaIndXyR _ d r => [d, withZ 0x20 r.code]
  | .sraIndXy _ d => [d, 0x2E]
  | .sraIndXyR _ d r => [d, withZ 0x28 r.code]
  | .sllIndXy _ d => [d, 0x36]
  | .sllIndXyR _ d r => [d, withZ 0x30 r.code]
  | .srlIndXy _ d => [d, 0x3E]
  | .srlIndXyR _ d r => [d, withZ 0x38 r.code]
  | .bitIndXy _ b d z => [d, withZ (withY 0x40 (code3 b)) (code3 z)]
  | .resIndXy _ b d => [d, withY 0x86 (code3 b)]
  | .resIndXyR _ b d r => [d, withZ (withY 0x80 (code3 b)) r.code]
  | .setIndXy _ b d => [d, withY 0xC6 (code3 b)]
  | .setIndXyR _ b d r => [d, withZ (withY 0xC0 (code3 b)) r.code]

/-- The prefix byte that selects an index register (R112). -/
def IndexReg.prefixByte : IndexReg → Byte
  | .ix => 0xDD
  | .iy => 0xFD

/-- The prefix bytes after which the core looks a byte up in table `t` (R100). The indexed-bit table is reached inside a
step, after the bytes `DD CB` or `FD CB`. -/
def Table.prefixBytes : Table → List Byte
  | .standard => []
  | .bit => [0xCB]
  | .extended => [0xED]
  | .indexed xy => [xy.prefixByte]
  | .indexedBit xy => [xy.prefixByte, 0xCB]

/-- The bytes of a whole instruction (R100): the prefix bytes of its table and the bytes of its slot. -/
def encode (i : Instr) : List Byte := i.table.prefixBytes ++ encodeSlot i

end Sys2Proof
end

