-- ==== Sys2Proof/Config.lean ====
section
/-! DEFINITION. What an implementation fixes: the named parameters of 00_scope.md R7 with the values the spec gives
them, and the free values of the model, the answers of the platform behind the accesses (R7 last row, decision D19). -/

namespace Sys2Proof.Machine

/-- One access the core performed at its boundary (20_memory.md R70 to R74), with its datum. -/
inductive BusAccess where
  | memRead (a : Word) (v : Byte)
  | memWrite (a : Word) (v : Byte)
  | portRead (p : Word) (v : Byte)
  | portWrite (p : Word) (v : Byte)
  deriving DecidableEq, Repr

end Sys2Proof.Machine

namespace Sys2Proof

/-- `T_FETCH`: T-states charged by one opcode-byte fetch (R7, decision D17). -/
def Config.tFetch : Nat := 4

/-- `T_HALT`: T-states charged by one halted step (R7, decision D18). -/
def Config.tHalt : Nat := 4

/-- `T_NMI`: T-states charged by NMI acceptance (R7, decision D10). -/
def Config.tNmi : Nat := 11

/-- `T_INT01`: T-states charged by maskable acceptance in mode 0 or 1 (R7, decision D10). -/
def Config.tInt01 : Nat := 13

/-- `T_INT2`: T-states charged by maskable acceptance in mode 2 (R7, decision D10). -/
def Config.tInt2 : Nat := 19

/-- `T_RESET`: what the clock reads after the reset step (R7, decision D7). -/
def Config.tReset : Nat := 0

/-- `NMI_VECTOR`: where NMI goes (R7, decision D9). -/
def Config.nmiVector : Word := 0x0066

/-- `INT_VECTOR_01`: where a maskable interrupt in mode 0 or 1 goes (R7, R448). -/
def Config.intVector01 : Word := 0x0038

/-- `INT_VECTOR_LOW`: the low byte of the mode-2 table address (R7, R449). -/
def Config.intVectorLow : Byte := 0x00

/-- `EI_DELAY`: `EI` blocks maskable acceptance for the one following step (R7, decision D5). -/
def Config.eiDelay : Bool := true

/-- A FREE VALUE: what the platform answers to a read of a memory address that is no plain memory. It may depend on which
platform it is (its number), on every access performed so far, the latest first, and on the address; it has no body, so
no proof can see what it is. "What a read returns and what a write does is the platform's" (R70, 93 U10; assumption
log 4). -/
opaque Config.freeMemByte (platform : Nat) (past : List Machine.BusAccess) (a : Word) : Byte

/-- A FREE VALUE: what the platform answers to a port read for which State holds no answer, in the same way, with the
number of port reads done so far: "for a model it is a free input of the step (a draw)" (R73, 93 U10; assumption log 6). -/
opaque Config.freePortByte (platform reads : Nat) (past : List Machine.BusAccess) (p : Word) : Byte

end Sys2Proof
end

