-- ==== Sys2Proof/Machine/State.lean ====
section
/-! DEFINITION. The state of the machine as plain data: every element of 10_state.md, and what stands behind the four
accesses of 20_memory.md (memory contents, the port answers the environment has supplied, the record of the accesses
performed). INVENTORY.md lists each field with its rule and reset value. -/

namespace Sys2Proof.Machine

/-- One register set: accumulator, flags and the three general pairs as halves (R20, R21). -/
structure RegSet where
  a : Byte
  f : Byte
  b : Byte
  c : Byte
  d : Byte
  e : Byte
  h : Byte
  l : Byte
  deriving DecidableEq, Repr

/-- The interrupt mode `IM` (R35). -/
inductive IntMode where
  | mode0 | mode1 | mode2
  deriving DecidableEq, Repr

/-- `PREFIX` (R38): `normal` is the spec's `None`. -/
inductive PrefixMode where
  | normal | bit | extended
  deriving DecidableEq, Repr

/-- What the platform has behind a memory address (R70, R80; assumption log 4): plain memory that a write changes, plain
memory that a write does not change, or anything else (a device, a hole, paged memory), of which nothing is known. -/
inductive MemKind where
  | ram | rom | device
  deriving DecidableEq, Repr

/-- A range of memory addresses of one kind, from `base` on, modulo 65536. -/
structure Region where
  base : Word
  size : Nat
  kind : MemKind
  deriving DecidableEq, Repr

/-- Memory: (address, byte) pairs in the canonical form of Machine/Memory.lean. -/
abbrev Memory := List Host.Cell

/-- The whole state. -/
structure State where
  /-- `A F B C D E H L` (R20). -/
  main : RegSet
  /-- The shadow set `A' F' B' C' D' E' H' L'` (R22). -/
  shadow : RegSet
  /-- `IX` (R23). -/
  ix : Word
  /-- `IY` (R23). -/
  iy : Word
  /-- `SP` (R24). -/
  sp : Word
  /-- `PC` (R25). -/
  pc : Word
  /-- The memory pointer `WZ` (R26). -/
  wz : Word
  /-- `I` (R32). -/
  i : Byte
  /-- `R` (R33). -/
  r : Byte
  /-- `IFF1` (R34). -/
  iff1 : Bool
  /-- `IFF2` (R34). -/
  iff2 : Bool
  /-- `IM` (R35). -/
  im : IntMode
  /-- `HALTED` (R36). -/
  halted : Bool
  /-- `INT_BLOCKED` (R37). -/
  intBlocked : Bool
  /-- `PREFIX` (R38). -/
  prefixMode : PrefixMode
  /-- `INDEX` (R39): `none` is the spec's own `None`. -/
  indexMode : Option IndexReg
  /-- `RESET_REQ` (R40). -/
  resetReq : Bool
  /-- `NMI_REQ` (R40). -/
  nmiReq : Bool
  /-- `INT_REQ` (R40). -/
  intReq : Bool
  /-- `clk`, unbounded (R41, decision D17). -/
  clk : Nat
  /-- The contents of plain memory (R42, R70; assumption log 4). -/
  mem : Memory
  /-- The platform's memory map: the first region that covers an address gives its kind, an address that none covers is
  `ram` (R70, R80; assumption log 4). -/
  regions : List Region
  /-- Which platform answers the accesses that neither plain memory nor `portAnswers` answers (R70, R87; assumption log 4). -/
  platform : Nat
  /-- The answers the environment has supplied for the coming port reads, in order (R73; assumption log 6). -/
  portAnswers : List Byte
  /-- How many port reads were done: the counter the free port answers are drawn by (assumption log 6). -/
  portReads : Nat
  /-- The accesses performed, the latest first (R79, R82; assumption log 7). -/
  bus : List BusAccess
  deriving DecidableEq, Repr

/-- The reasons a step could stop with a fault: none. "There are no recoverable runtime errors inside the core" (R440),
"No step faults, refuses or is stuck" (R16), so the type is empty: that the machine never faults is part of its type. -/
inductive Fault where
  deriving DecidableEq, Repr

/-- The reasons a term of `Instr` can be refused. No byte sequence of the hardware is refused (R123). -/
inductive Refusal where
  /-- An instruction that has no meaning yet: raised by a refused arm of `exec` only. Safe: the machine stops. -/
  | notModelled (mnemonic : String)
  /-- A term `xyStandard _ i` or `indexedBit _ i` whose `i` is no slot of the table it hands over to: raised by
  `execXyStandard` and `execIndexedBit` on such ill-formed terms, which no decoding gives. Safe: the machine stops. -/
  | notASlot
  deriving DecidableEq, Repr

/-- The register set with every register 0. -/
def RegSet.zero : RegSet := { a := 0, f := 0, b := 0, c := 0, d := 0, e := 0, h := 0, l := 0 }

/-- The machine right after the reset step (R46, R444, R480). The registers that reset leaves unchanged, and which are
unspecified before it (R481, R482), are 0 here: DESIGN CHOICE, assumption log 1. -/
def State.reset : State where
  main := RegSet.zero
  shadow := RegSet.zero
  ix := 0
  iy := 0
  sp := 0
  pc := 0x0000
  wz := 0
  i := 0x00
  r := 0x00
  iff1 := false
  iff2 := false
  im := .mode0
  halted := false
  intBlocked := false
  prefixMode := .normal
  indexMode := none
  resetReq := false
  nmiReq := false
  intReq := false
  clk := Config.tReset
  mem := []
  regions := []
  platform := 0
  portAnswers := []
  portReads := 0
  bus := []

end Sys2Proof.Machine
end

