-- ==== Sys2Proof/Machine/Memory.lean ====
section
/-! DEFINITION. Memory as a list of (address, byte) pairs in one canonical form: addresses strictly rising and below
65536, no byte equal to what an unlisted address reads as (R42, R70 to R72; assumption logs 2 and 4). -/

namespace Sys2Proof.Machine

/-- What an address that the list does not name reads as: DESIGN CHOICE 0x00 (assumption log 2; the flat RAM of
95_test_vectors.md). -/
def Memory.unlisted : Byte := 0

/-- The byte at an address. -/
def Memory.read : Memory → Nat → Byte
  | [], _ => Memory.unlisted
  | (k, v) :: m, a => if k = a then v else Memory.read m a

/-- Take every entry for an address out. -/
def Memory.erase : Memory → Nat → Memory
  | [], _ => []
  | (k, v) :: m, a => if k = a then Memory.erase m a else (k, v) :: Memory.erase m a

/-- Put an entry in its place by address. -/
def Memory.insert : Memory → Nat → Byte → Memory
  | [], a, v => [(a, v)]
  | (k, w) :: m, a, v => if a < k then (a, v) :: (k, w) :: m else (k, w) :: Memory.insert m a v

/-- Store a byte, keeping the canonical form: storing what an unlisted address reads as removes the entry. -/
def Memory.write (m : Memory) (a : Nat) (v : Byte) : Memory :=
  if v = Memory.unlisted then m.erase a else (m.erase a).insert a v

/-- Every address of the list is above `low` and below 65536, addresses rise strictly, no entry is redundant. -/
def Memory.wfAbove : Nat → Memory → Bool
  | _, [] => true
  | low, (k, v) :: m => low ≤ k && k < 65536 && v != Memory.unlisted && Memory.wfAbove (k + 1) m

/-- The canonical form. -/
def Memory.wf (m : Memory) : Bool := Memory.wfAbove 0 m

/-! ### The platform's memory map (R70, R80) -/

/-- The region covers the address. -/
def Region.covers (r : Region) (a : Word) : Bool := (a - r.base).toNat < r.size

/-- The kind of an address in a memory map: the first region that covers it decides, without one it is RAM. -/
def memKindIn (regions : List Region) (a : Word) : MemKind :=
  match regions.find? (fun r => r.covers a) with
  | some r => r.kind
  | none => .ram

/-- Plain memory after the memory-write access: only RAM takes the byte (R70, R72). -/
def Memory.store (regions : List Region) (m : Memory) (a : Word) (v : Byte) : Memory :=
  match memKindIn regions a with
  | .ram => m.write a.toNat v
  | .rom | .device => m

/-- What the memory-read access answers: the content of plain memory, and from anything else a free value, which every access
may change (R70, R71, R79; 93 U10). -/
def Memory.answer (regions : List Region) (m : Memory) (platform : Nat) (past : List BusAccess) (a : Word) : Byte :=
  match memKindIn regions a with
  | .ram | .rom => m.read a.toNat
  | .device => Config.freeMemByte platform past a

end Sys2Proof.Machine
end

