-- ==== Sys2Proof/Machine/Ops.lean ====
section
/-! DEFINITION. The shared operations over memory, ports, the instruction stream, the stack and the signals
(00_scope.md R10 to R14; 20_memory.md; 30_encoding.md R110, R111; 60_exceptions.md). Every access of the core goes
through `memRead`, `memWrite`, `portRead` and `portWrite`, which record it. -/

namespace Sys2Proof.Machine

/-- What running an instruction gives. -/
abbrev Result := Host.Outcome State Fault Refusal

/-! ### The four accesses (R70 to R74) -/

/-- What the platform has behind an address. -/
def State.memKind (s : State) (a : Word) : MemKind := memKindIn s.regions a

/-- The byte that plain memory holds at an address. -/
def State.content (s : State) (a : Word) : Byte := s.mem.read a.toNat

/-- What the memory-read access answers if it is the next access performed. -/
def State.peek (s : State) (a : Word) : Byte := Memory.answer s.regions s.mem s.platform s.bus a

/-- Record an access. -/
def State.record (s : State) (x : BusAccess) : State := { s with bus := x :: s.bus }

/-- `MemRead(addr, 1)` (R71). -/
def State.memRead (s : State) (a : Word) : Byte × State := (s.peek a, s.record (.memRead a (s.peek a)))

/-- `MemWrite(addr, 1, v)` (R72). -/
def State.memWrite (s : State) (a : Word) (v : Byte) : State :=
  { s with mem := s.mem.store s.regions a v, bus := .memWrite a v :: s.bus }

/-- What the platform answers to the next port read: the environment's supplied answer, or a free value (R73; 93 U10). -/
def State.portAnswer (s : State) (p : Word) : Byte :=
  match s.portAnswers with
  | v :: _ => v
  | [] => Config.freePortByte s.platform s.portReads s.bus p

/-- `PortRead(p)` (R73). -/
def State.portRead (s : State) (p : Word) : Byte × State :=
  (s.portAnswer p,
    { s with
      portAnswers := s.portAnswers.tail
      portReads := s.portReads + 1
      bus := .portRead p (s.portAnswer p) :: s.bus })

/-- `PortWrite(p, v)` (R74). -/
def State.portWrite (s : State) (p : Word) (v : Byte) : State := s.record (.portWrite p v)

/-- `MemRead(addr, 2)`: low byte, then high byte at `addr + 1` modulo 65536 (R10, R77). -/
def State.memRead16 (s : State) (a : Word) : Word × State :=
  let (l, s) := s.memRead a
  let (h, s) := s.memRead (a + 1)
  (join h l, s)

/-- `MemWrite(addr, 2, v)`: low byte, then high byte at `addr + 1` modulo 65536 (R10, R77). -/
def State.memWrite16 (s : State) (a v : Word) : State := (s.memWrite a (lo v)).memWrite (a + 1) (hi v)

/-! ### The instruction stream (R11) -/

/-- `incR(R)`: the low 7 bits count, bit 7 is kept (R33). -/
def incR (r : Byte) : Byte := (r &&& 0x80) ||| ((r + 1) &&& 0x7F)

/-- `fetch8()`: an operand byte (R11). -/
def State.fetch8 (s : State) : Byte × State :=
  let (b, s) := s.memRead s.pc
  (b, { s with pc := s.pc + 1 })

/-- `fetchop()`: an opcode byte, with its refresh and its T-states (R11). -/
def State.fetchOp (s : State) : Byte × State :=
  let (b, s) := s.fetch8
  (b, { s with r := incR s.r, clk := s.clk + Config.tFetch })

/-- `k` operand bytes, one after another. -/
def State.fetchOperands : Nat → State → State
  | 0, s => s
  | k + 1, s => State.fetchOperands k s.fetch8.2

/-- The table the next fetched byte is looked up in (R110; R118 for `PREFIX = Bit` with an index mode set). -/
def State.table (s : State) : Table :=
  match s.prefixMode with
  | .bit => .bit
  | .extended => .extended
  | .normal => tableOfIndex s.indexMode

/-- The instruction the next fetch step dispatches: the slot selected by the bytes that reads at `PC` and after it are
answered with, each read at its place in the order. A slot looks at no byte beyond its own (R103), and only its own are fetched. -/
def State.nextInstr (s : State) : Instr :=
  let (op, s₁) := s.fetchOp
  let (a, s₂) := s₁.fetch8
  decodeSlot s.table op a s₂.fetch8.1

/-- The state in which the handler of `i` runs: its opcode byte and operand bytes fetched, so that `PC` is the address
of the next instruction (R25; assumption log 8). -/
def State.afterFetch (s : State) (i : Instr) : State := State.fetchOperands i.operandBytes s.fetchOp.2

/-- `PREFIX` after the prefix bytes of table `t` (R112, R113, R115). -/
def tablePrefixMode : Table → PrefixMode
  | .standard | .indexed _ | .indexedBit _ => .normal
  | .bit => .bit
  | .extended => .extended

/-- `INDEX` after the prefix bytes of table `t` (R112, R113, R115). -/
def tableIndexMode : Table → Option IndexReg
  | .standard | .bit | .extended => none
  | .indexed xy | .indexedBit xy => some xy

/-! ### Ending a handler (R110, R111, R501) -/

/-- `complete()`, and the T-states the handler reports. -/
def State.complete (s : State) (t : Nat) : State :=
  { s with clk := s.clk + t, prefixMode := .normal, indexMode := none }

/-- End a handler whose instruction takes `total` T-states, `fetches` opcode fetches included: the handler charges the
remainder (R501). -/
def State.finish (s : State) (total fetches : Nat) : Result := .next (s.complete (total - Config.tFetch * fetches))

/-! ### The stack (R12) -/

/-- `push16(v)`: high byte first, to `SP - 1`, then the low byte to `SP - 2`. -/
def State.push16 (s : State) (v : Word) : State :=
  let s := { s with sp := s.sp - 1 }
  let s := s.memWrite s.sp (hi v)
  let s := { s with sp := s.sp - 1 }
  s.memWrite s.sp (lo v)

/-- `pop16()`: the low byte from `SP`, then the high byte. -/
def State.pop16 (s : State) : Word × State :=
  let (l, s) := s.memRead s.sp
  let s := { s with sp := s.sp + 1 }
  let (h, s) := s.memRead s.sp
  (join h l, { s with sp := s.sp + 1 })

/-! ### Taking a signal and returning from one (R444 to R455) -/

/-- "if halted, advance program counter past the HALT opcode" (R445, R447, R450). -/
def State.wake (s : State) : State := if s.halted then { s with pc := s.pc + 1, halted := false } else s

/-- What NMI and a maskable interrupt share: wake the core, clear `IFF1`, give `IFF2` its value, save `PC` on the stack
(R445, R447, R454). -/
def State.enterSignal (s : State) (iff2 : Bool) : State :=
  let s := s.wake
  State.push16 { s with iff1 := false, iff2 := iff2 } s.pc

/-- `nmi_service()` (R445): `IFF2`, `PREFIX` and `INDEX` are kept. -/
def State.nmiService (s : State) : State :=
  let s := s.enterSignal s.iff2
  { s with pc := Config.nmiVector, clk := s.clk + Config.tNmi, nmiReq := false }

/-- `mode01()` (R448). -/
def State.intMode01 (s : State) : State :=
  { s with pc := Config.intVector01, wz := Config.intVector01, clk := s.clk + Config.tInt01 }

/-- `mode2()`: the pointer at `I:INT_VECTOR_LOW`, low byte first (R449). -/
def State.intMode2 (s : State) : State :=
  let (target, s) := s.memRead16 (join s.i Config.intVectorLow)
  { s with pc := target, wz := target, clk := s.clk + Config.tInt2 }

/-- `int_service()` (R447 to R449, R452): mode 0 behaves as mode 1; `INT_REQ` is not changed. -/
def State.intService (s : State) : State :=
  let s := s.enterSignal false
  match s.im with
  | .mode2 => s.intMode2
  | .mode0 | .mode1 => s.intMode01

/-- `reset_service()` (R444): everything it does not name is left unchanged (decision D24). -/
def State.resetService (s : State) : State :=
  { s with
    halted := false
    iff1 := false
    iff2 := false
    im := .mode0
    intBlocked := false
    prefixMode := .normal
    indexMode := none
    pc := 0x0000
    r := 0x00
    i := 0x00
    clk := Config.tReset
    resetReq := false }

/-- A halted step: no memory access, `T_HALT` T-states, one refresh (R110, R277). -/
def State.haltedStep (s : State) : State := { s with clk := s.clk + Config.tHalt, r := incR s.r }

/-- A maskable interrupt is accepted: `INT_REQ and IFF1 and not blocked`, with the value `INT_BLOCKED` had at the end of
the previous step (R446). -/
def State.acceptsInt (s : State) : Bool := s.intReq && s.iff1 && !s.intBlocked

/-- The tests of `step()` before the fetch, in their fixed order (R110, R443): the state after the signal serviced or after a halted
step, none when the step fetches. `INT_BLOCKED` is read and cleared first (decision D3). -/
def State.signalStep (s : State) : Option State :=
  let t := { s with intBlocked := false }
  if s.resetReq then some t.resetService
  else if s.nmiReq then some t.nmiService
  else if s.acceptsInt then some t.intService
  else if s.halted then some t.haltedStep
  else none

/-- What `RETN` and `RETI` do: `PC` from the stack, `WZ` the same, `IFF1` from `IFF2` (R392, R393, R455). -/
def State.returnFromSignal (s : State) : State :=
  let (target, s) := s.pop16
  { s with pc := target, wz := target, iff1 := s.iff2 }

/-! ### Placing bytes in memory from outside -/

/-- Plain memory with `bs` as its contents from `a` on, modulo 65536, RAM or ROM alike: not an access of the core, so nothing is
recorded. -/
def State.placeBytes : State → Word → List Byte → State
  | s, _, [] => s
  | s, a, v :: bs => State.placeBytes { s with mem := s.mem.write a.toNat v } (a + 1) bs

end Sys2Proof.Machine
end

