-- ==== Sys2Proof/Machine/Operands.lean ====
section
/-! DEFINITION. The operand forms: registers, pairs, index registers and their halves, the indexed address, and the
read-modify-write of a memory operand (10_state.md R20 to R23; 30_encoding.md R104 to R106, R114, R116; R234, R325). -/

namespace Sys2Proof.Machine

/-! ### 8-bit registers (R104) -/

/-- `r[c]` (R104). -/
def State.reg (s : State) (r : Reg8) : Byte :=
  match r with
  | .b => s.main.b
  | .c => s.main.c
  | .d => s.main.d
  | .e => s.main.e
  | .h => s.main.h
  | .l => s.main.l
  | .a => s.main.a

/-- `r[c] <- v`: the other half of the pair is unchanged (R21, R104). -/
def State.setReg (s : State) (r : Reg8) (v : Byte) : State :=
  match r with
  | .b => { s with main := { s.main with b := v } }
  | .c => { s with main := { s.main with c := v } }
  | .d => { s with main := { s.main with d := v } }
  | .e => { s with main := { s.main with e := v } }
  | .h => { s with main := { s.main with h := v } }
  | .l => { s with main := { s.main with l := v } }
  | .a => { s with main := { s.main with a := v } }

/-- `F <- v`. -/
def State.setF (s : State) (v : Byte) : State := { s with main := { s.main with f := v } }

/-- `(A, F) <- v`. -/
def State.setAF (s : State) (v : Byte × Byte) : State := { s with main := { s.main with a := v.1, f := v.2 } }

/-! ### Pairs (R21, R105, R106) -/

/-- `BC`. -/
def State.bc (s : State) : Word := join s.main.b s.main.c
/-- `DE`. -/
def State.de (s : State) : Word := join s.main.d s.main.e
/-- `HL`. -/
def State.hl (s : State) : Word := join s.main.h s.main.l
/-- `AF`. -/
def State.af (s : State) : Word := join s.main.a s.main.f

/-- `BC <- v`: both halves (R21). -/
def State.setBc (s : State) (v : Word) : State := { s with main := { s.main with b := hi v, c := lo v } }
/-- `DE <- v`. -/
def State.setDe (s : State) (v : Word) : State := { s with main := { s.main with d := hi v, e := lo v } }
/-- `HL <- v`. -/
def State.setHl (s : State) (v : Word) : State := { s with main := { s.main with h := hi v, l := lo v } }

/-- `dd[p]` (R105). -/
def State.pair (s : State) (dd : Pair) : Word :=
  match dd with
  | .bc => s.bc
  | .de => s.de
  | .hl => s.hl
  | .sp => s.sp

/-- `dd[p] <- v` (R105). -/
def State.setPair (s : State) (dd : Pair) (v : Word) : State :=
  match dd with
  | .bc => s.setBc v
  | .de => s.setDe v
  | .hl => s.setHl v
  | .sp => { s with sp := v }

/-- `qq[p]` (R106). -/
def State.stackPair (s : State) (qq : StackPair) : Word :=
  match qq with
  | .bc => s.bc
  | .de => s.de
  | .hl => s.hl
  | .af => s.af

/-- `qq[p] <- v` (R106); `AF` takes all 8 bits of `F` as data (R182). -/
def State.setStackPair (s : State) (qq : StackPair) (v : Word) : State :=
  match qq with
  | .bc => s.setBc v
  | .de => s.setDe v
  | .hl => s.setHl v
  | .af => s.setAF (hi v, lo v)

/-! ### Index registers (R23, R114, R116) -/

/-- `XY`: `IX` or `IY`. -/
def State.xy (s : State) (xy : IndexReg) : Word :=
  match xy with
  | .ix => s.ix
  | .iy => s.iy

/-- `XY <- v`. -/
def State.setXy (s : State) (xy : IndexReg) (v : Word) : State :=
  match xy with
  | .ix => { s with ix := v }
  | .iy => { s with iy := v }

/-- `pp[p]` after `DD`, `rr[p]` after `FD` (R105). -/
def State.indexedPair (s : State) (xy : IndexReg) (pp : IndexedPair) : Word :=
  match pp with
  | .bc => s.bc
  | .de => s.de
  | .xy => s.xy xy
  | .sp => s.sp

/-- `XYH` or `XYL` (R23). -/
def State.half (s : State) (xy : IndexReg) (h : Half) : Byte :=
  match h with
  | .high => hi (s.xy xy)
  | .low => lo (s.xy xy)

/-- `XYH <- v` or `XYL <- v`: the other half is unchanged (R21, R23). -/
def State.setHalf (s : State) (xy : IndexReg) (h : Half) (v : Byte) : State :=
  match h with
  | .high => s.setXy xy (join v (lo (s.xy xy)))
  | .low => s.setXy xy (join (hi (s.xy xy)) v)

/-- `r[c]` in an instruction without memory operand after an index prefix: codes 4 and 5 are the halves (R114 item 3). -/
def State.indexedReg (s : State) (xy : IndexReg) (r : Reg8) : Byte :=
  match r with
  | .h => s.half xy .high
  | .l => s.half xy .low
  | .b | .c | .d | .e | .a => s.reg r

/-- `r[c] <- v` in an instruction without memory operand after an index prefix (R114 item 3). -/
def State.setIndexedReg (s : State) (xy : IndexReg) (r : Reg8) (v : Byte) : State :=
  match r with
  | .h => s.setHalf xy .high v
  | .l => s.setHalf xy .low v
  | .b | .c | .d | .e | .a => s.setReg r v

/-- `EA(d) = (XY + sext8(d)) mod 65536` (R116). -/
def State.ea (s : State) (xy : IndexReg) (d : Byte) : Word := s.xy xy + sext8 d

/-- `WZ <- v`. -/
def State.setWz (s : State) (v : Word) : State := { s with wz := v }

/-- `ea <- EA(d); WZ <- ea`: what every instruction with an `(XY+d)` operand does first (R116). -/
def State.indexedAddress (s : State) (xy : IndexReg) (d : Byte) : Word × State := (s.ea xy d, s.setWz (s.ea xy d))

/-! ### Operands of the accumulator operations and read-modify-write -/

/-- `(A, F) <- alu(A, v)` (R235 to R242). -/
def State.accumulate (s : State) (op : AluOp) (v : Byte) : State := s.setAF (alu8 op s.main.a v s.main.f)

/-- The accumulator operation on the byte at an address (R234). -/
def State.accumulateAt (s : State) (op : AluOp) (a : Word) : State :=
  let (v, s) := s.memRead a
  s.accumulate op v

/-- The accumulator operation on `(XY+d)` (R234). -/
def State.accumulateIndexed (s : State) (op : AluOp) (xy : IndexReg) (d : Byte) : State :=
  let (ea, s) := s.indexedAddress xy d
  s.accumulateAt op ea

/-- Read the byte at an address, compute a result and a flag byte from it and the old `F`, write the result back to the
same address and then `F` (R78, R244, R325); gives the result as well. -/
def State.modifyAt (s : State) (g : Byte → Byte → Byte × Byte) (a : Word) : Byte × State :=
  let (v, s) := s.memRead a
  let (r, f) := g v s.main.f
  (r, (s.memWrite a r).setF f)

/-- The same at `(XY+d)` (R245, R325). -/
def State.modifyIndexed (s : State) (g : Byte → Byte → Byte × Byte) (xy : IndexReg) (d : Byte) : Byte × State :=
  let (ea, s) := s.indexedAddress xy d
  s.modifyAt g ea

/-- The same on a register (R243, R325). -/
def State.modifyReg (s : State) (g : Byte → Byte → Byte × Byte) (r : Reg8) : State :=
  let (v, f) := g (s.reg r) s.main.f
  (s.setReg r v).setF f

/-- The same on a half of an index register (R243). -/
def State.modifyHalf (s : State) (g : Byte → Byte → Byte × Byte) (xy : IndexReg) (h : Half) : State :=
  let (v, f) := g (s.half xy h) s.main.f
  (s.setHalf xy h v).setF f

end Sys2Proof.Machine
end

