-- ==== Sys2Proof/Machine/Alu16.lean ====
section
/-! DEFINITION. The 16-bit arithmetic group (45_alu16.md R300 to R307). -/

namespace Sys2Proof.Machine

/-- `ADD HL,ss`: `WZ` is the old `HL` + 1 (R300). -/
def execAddHlSs (ss : Pair) (s : State) : Result :=
  let (v, f) := add16 s.hl (s.pair ss) s.main.f
  (((s.setWz (s.hl + 1)).setF f).setHl v).finish 11 1

/-- `ADC HL,ss` (R301). -/
def execAdcHlSs (ss : Pair) (s : State) : Result :=
  let (v, f) := adc16 s.hl (s.pair ss) (flagC s.main.f)
  (((s.setWz (s.hl + 1)).setF f).setHl v).finish 15 2

/-- `SBC HL,ss` (R302). -/
def execSbcHlSs (ss : Pair) (s : State) : Result :=
  let (v, f) := sbc16 s.hl (s.pair ss) (flagC s.main.f)
  (((s.setWz (s.hl + 1)).setF f).setHl v).finish 15 2

/-- `ADD IX,pp`, `ADD IY,rr` (R303). -/
def execAddXyPp (xy : IndexReg) (pp : IndexedPair) (s : State) : Result :=
  let (v, f) := add16 (s.xy xy) (s.indexedPair xy pp) s.main.f
  (((s.setWz (s.xy xy + 1)).setF f).setXy xy v).finish 15 2

/-- `INC ss` (R304). -/
def execIncSs (ss : Pair) (s : State) : Result := (s.setPair ss (s.pair ss + 1)).finish 6 1

/-- `DEC ss` (R305). -/
def execDecSs (ss : Pair) (s : State) : Result := (s.setPair ss (s.pair ss - 1)).finish 6 1

/-- `INC IX`, `INC IY` (R306). -/
def execIncXy (xy : IndexReg) (s : State) : Result := (s.setXy xy (s.xy xy + 1)).finish 10 2

/-- `DEC IX`, `DEC IY` (R307). -/
def execDecXy (xy : IndexReg) (s : State) : Result := (s.setXy xy (s.xy xy - 1)).finish 10 2

end Sys2Proof.Machine
end

