-- ==== Sys2Proof/Machine/Alu8.lean ====
section
/-! DEFINITION. The 8-bit arithmetic and logic group (43_alu8.md R234 to R248): each operation in the operand forms of R234. -/

namespace Sys2Proof.Machine

/-- `ADD A,r` (R235). -/
def execAddR (r : Reg8) (s : State) : Result := (s.accumulate .add (s.reg r)).finish 4 1

/-- `ADD A,n` (R235). -/
def execAddN (n : Byte) (s : State) : Result := (s.accumulate .add n).finish 7 1

/-- `ADD A,(HL)` (R235). -/
def execAddIndHl (s : State) : Result := (s.accumulateAt .add s.hl).finish 7 1

/-- `ADD A,IXH` and the other halves (R235). -/
def execAddXyHalf (xy : IndexReg) (h : Half) (s : State) : Result := (s.accumulate .add (s.half xy h)).finish 8 2

/-- `ADD A,(IX+d)`, `ADD A,(IY+d)` (R235). -/
def execAddIndXy (xy : IndexReg) (d : Byte) (s : State) : Result := (s.accumulateIndexed .add xy d).finish 19 2

/-- `ADC A,r` (R236). -/
def execAdcR (r : Reg8) (s : State) : Result := (s.accumulate .adc (s.reg r)).finish 4 1

/-- `ADC A,n` (R236). -/
def execAdcN (n : Byte) (s : State) : Result := (s.accumulate .adc n).finish 7 1

/-- `ADC A,(HL)` (R236). -/
def execAdcIndHl (s : State) : Result := (s.accumulateAt .adc s.hl).finish 7 1

/-- `ADC A,IXH` and the other halves (R236). -/
def execAdcXyHalf (xy : IndexReg) (h : Half) (s : State) : Result := (s.accumulate .adc (s.half xy h)).finish 8 2

/-- `ADC A,(IX+d)`, `ADC A,(IY+d)` (R236). -/
def execAdcIndXy (xy : IndexReg) (d : Byte) (s : State) : Result := (s.accumulateIndexed .adc xy d).finish 19 2

/-- `SUB r` (R237). -/
def execSubR (r : Reg8) (s : State) : Result := (s.accumulate .sub (s.reg r)).finish 4 1

/-- `SUB n` (R237). -/
def execSubN (n : Byte) (s : State) : Result := (s.accumulate .sub n).finish 7 1

/-- `SUB (HL)` (R237). -/
def execSubIndHl (s : State) : Result := (s.accumulateAt .sub s.hl).finish 7 1

/-- `SUB IXH` and the other halves (R237). -/
def execSubXyHalf (xy : IndexReg) (h : Half) (s : State) : Result := (s.accumulate .sub (s.half xy h)).finish 8 2

/-- `SUB (IX+d)`, `SUB (IY+d)` (R237). -/
def execSubIndXy (xy : IndexReg) (d : Byte) (s : State) : Result := (s.accumulateIndexed .sub xy d).finish 19 2

/-- `SBC A,r` (R238). -/
def execSbcR (r : Reg8) (s : State) : Result := (s.accumulate .sbc (s.reg r)).finish 4 1

/-- `SBC A,n` (R238). -/
def execSbcN (n : Byte) (s : State) : Result := (s.accumulate .sbc n).finish 7 1

/-- `SBC A,(HL)` (R238). -/
def execSbcIndHl (s : State) : Result := (s.accumulateAt .sbc s.hl).finish 7 1

/-- `SBC A,IXH` and the other halves (R238). -/
def execSbcXyHalf (xy : IndexReg) (h : Half) (s : State) : Result := (s.accumulate .sbc (s.half xy h)).finish 8 2

/-- `SBC A,(IX+d)`, `SBC A,(IY+d)` (R238). -/
def execSbcIndXy (xy : IndexReg) (d : Byte) (s : State) : Result := (s.accumulateIndexed .sbc xy d).finish 19 2

/-- `AND r` (R239). -/
def execAndR (r : Reg8) (s : State) : Result := (s.accumulate .and (s.reg r)).finish 4 1

/-- `AND n` (R239). -/
def execAndN (n : Byte) (s : State) : Result := (s.accumulate .and n).finish 7 1

/-- `AND (HL)` (R239). -/
def execAndIndHl (s : State) : Result := (s.accumulateAt .and s.hl).finish 7 1

/-- `AND IXH` and the other halves (R239). -/
def execAndXyHalf (xy : IndexReg) (h : Half) (s : State) : Result := (s.accumulate .and (s.half xy h)).finish 8 2

/-- `AND (IX+d)`, `AND (IY+d)` (R239). -/
def execAndIndXy (xy : IndexReg) (d : Byte) (s : State) : Result := (s.accumulateIndexed .and xy d).finish 19 2

/-- `XOR r` (R240). -/
def execXorR (r : Reg8) (s : State) : Result := (s.accumulate .xor (s.reg r)).finish 4 1

/-- `XOR n` (R240). -/
def execXorN (n : Byte) (s : State) : Result := (s.accumulate .xor n).finish 7 1

/-- `XOR (HL)` (R240). -/
def execXorIndHl (s : State) : Result := (s.accumulateAt .xor s.hl).finish 7 1

/-- `XOR IXH` and the other halves (R240). -/
def execXorXyHalf (xy : IndexReg) (h : Half) (s : State) : Result := (s.accumulate .xor (s.half xy h)).finish 8 2

/-- `XOR (IX+d)`, `XOR (IY+d)` (R240). -/
def execXorIndXy (xy : IndexReg) (d : Byte) (s : State) : Result := (s.accumulateIndexed .xor xy d).finish 19 2

/-- `OR r` (R241). -/
def execOrR (r : Reg8) (s : State) : Result := (s.accumulate .or (s.reg r)).finish 4 1

/-- `OR n` (R241). -/
def execOrN (n : Byte) (s : State) : Result := (s.accumulate .or n).finish 7 1

/-- `OR (HL)` (R241). -/
def execOrIndHl (s : State) : Result := (s.accumulateAt .or s.hl).finish 7 1

/-- `OR IXH` and the other halves (R241). -/
def execOrXyHalf (xy : IndexReg) (h : Half) (s : State) : Result := (s.accumulate .or (s.half xy h)).finish 8 2

/-- `OR (IX+d)`, `OR (IY+d)` (R241). -/
def execOrIndXy (xy : IndexReg) (d : Byte) (s : State) : Result := (s.accumulateIndexed .or xy d).finish 19 2

/-- `CP r` (R242). -/
def execCpR (r : Reg8) (s : State) : Result := (s.accumulate .cp (s.reg r)).finish 4 1

/-- `CP n` (R242). -/
def execCpN (n : Byte) (s : State) : Result := (s.accumulate .cp n).finish 7 1

/-- `CP (HL)` (R242). -/
def execCpIndHl (s : State) : Result := (s.accumulateAt .cp s.hl).finish 7 1

/-- `CP IXH` and the other halves (R242). -/
def execCpXyHalf (xy : IndexReg) (h : Half) (s : State) : Result := (s.accumulate .cp (s.half xy h)).finish 8 2

/-- `CP (IX+d)`, `CP (IY+d)` (R242). -/
def execCpIndXy (xy : IndexReg) (d : Byte) (s : State) : Result := (s.accumulateIndexed .cp xy d).finish 19 2

/-- `INC r` (R243). -/
def execIncR (r : Reg8) (s : State) : Result := (s.modifyReg inc8 r).finish 4 1

/-- `INC IXH` and the other halves (R243). -/
def execIncXyHalf (xy : IndexReg) (h : Half) (s : State) : Result := (s.modifyHalf inc8 xy h).finish 8 2

/-- `INC (HL)` (R244). -/
def execIncIndHl (s : State) : Result := (s.modifyAt inc8 s.hl).2.finish 11 1

/-- `INC (IX+d)`, `INC (IY+d)` (R245). -/
def execIncIndXy (xy : IndexReg) (d : Byte) (s : State) : Result := (s.modifyIndexed inc8 xy d).2.finish 23 2

/-- `DEC r` (R246). -/
def execDecR (r : Reg8) (s : State) : Result := (s.modifyReg dec8 r).finish 4 1

/-- `DEC IXH` and the other halves (R246). -/
def execDecXyHalf (xy : IndexReg) (h : Half) (s : State) : Result := (s.modifyHalf dec8 xy h).finish 8 2

/-- `DEC (HL)` (R247). -/
def execDecIndHl (s : State) : Result := (s.modifyAt dec8 s.hl).2.finish 11 1

/-- `DEC (IX+d)`, `DEC (IY+d)` (R248). -/
def execDecIndXy (xy : IndexReg) (d : Byte) (s : State) : Result := (s.modifyIndexed dec8 xy d).2.finish 23 2

end Sys2Proof.Machine
end

