-- ==== Sys2Proof/Machine/Bit.lean ====
section
/-! DEFINITION. The bit test, set and reset group (47_bit.md R360 to R369). -/

namespace Sys2Proof.Machine

/-- The byte with bit `b` set, flags kept: as a read-modify-write (R364 to R366). -/
def setBit (b : BitVec 3) (v f : Byte) : Byte × Byte := (v ||| bitMask b, f)

/-- The byte with bit `b` reset, flags kept (R367 to R369). -/
def resetBit (b : BitVec 3) (v f : Byte) : Byte × Byte := (v &&& ~~~(bitMask b), f)

/-- `BIT b,r` (R361). -/
def execBitR (b : BitVec 3) (r : Reg8) (s : State) : Result :=
  (s.setF (bitFlags (s.reg r) b (s.reg r) s.main.f)).finish 8 2

/-- `BIT b,(HL)`: F5 and F3 from the high byte of `WZ` (R362). -/
def execBitIndHl (b : BitVec 3) (s : State) : Result :=
  let (v, s) := s.memRead s.hl
  (s.setF (bitFlags v b (hi s.wz) s.main.f)).finish 12 2

/-- `BIT b,(IX+d)`, `BIT b,(IY+d)`: F5 and F3 from the high byte of the address (R363). -/
def execBitIndXy (xy : IndexReg) (b : BitVec 3) (d : Byte) (s : State) : Result :=
  let (ea, s) := s.indexedAddress xy d
  let (v, s) := s.memRead ea
  (s.setF (bitFlags v b (hi ea) s.main.f)).finish 20 2

/-- `SET b,r` (R364). -/
def execSetR (b : BitVec 3) (r : Reg8) (s : State) : Result := (s.modifyReg (setBit b) r).finish 8 2

/-- `SET b,(HL)` (R365). -/
def execSetIndHl (b : BitVec 3) (s : State) : Result := (s.modifyAt (setBit b) s.hl).2.finish 15 2

/-- `SET b,(IX+d)`, `SET b,(IY+d)` (R366). -/
def execSetIndXy (xy : IndexReg) (b : BitVec 3) (d : Byte) (s : State) : Result :=
  (s.modifyIndexed (setBit b) xy d).2.finish 23 2

/-- `SET b,(IX+d),r`: the result also goes to the real register (R366). -/
def execSetIndXyR (xy : IndexReg) (b : BitVec 3) (d : Byte) (r : Reg8) (s : State) : Result :=
  let (v, s) := s.modifyIndexed (setBit b) xy d
  (s.setReg r v).finish 23 2

/-- `RES b,r` (R367). -/
def execResR (b : BitVec 3) (r : Reg8) (s : State) : Result := (s.modifyReg (resetBit b) r).finish 8 2

/-- `RES b,(HL)` (R368). -/
def execResIndHl (b : BitVec 3) (s : State) : Result := (s.modifyAt (resetBit b) s.hl).2.finish 15 2

/-- `RES b,(IX+d)`, `RES b,(IY+d)` (R369). -/
def execResIndXy (xy : IndexReg) (b : BitVec 3) (d : Byte) (s : State) : Result :=
  (s.modifyIndexed (resetBit b) xy d).2.finish 23 2

/-- `RES b,(IX+d),r`: the result also goes to the real register (R369). -/
def execResIndXyR (xy : IndexReg) (b : BitVec 3) (d : Byte) (r : Reg8) (s : State) : Result :=
  let (v, s) := s.modifyIndexed (resetBit b) xy d
  (s.setReg r v).finish 23 2

end Sys2Proof.Machine
end

