-- ==== Sys2Proof/Machine/Control.lean ====
section
/-! DEFINITION. The general-purpose arithmetic and CPU control group (44_general_control.md R270 to R281). -/

namespace Sys2Proof.Machine

/-- `DAA` (R270). -/
def execDaa (s : State) : Result := (s.setAF (daa8 s.main.a s.main.f)).finish 4 1

/-- `CPL` (R271). -/
def execCpl (s : State) : Result := (s.setAF (cpl8 s.main.a s.main.f)).finish 4 1

/-- `NEG` (R272). -/
def execNeg (s : State) : Result := (s.setAF (sub8 0 s.main.a false)).finish 8 2

/-- `CCF` (R273). -/
def execCcf (s : State) : Result := (s.setF (ccfFlags s.main.a s.main.f)).finish 4 1

/-- `SCF` (R274). -/
def execScf (s : State) : Result := (s.setF (scfFlags s.main.a s.main.f)).finish 4 1

/-- `NOP` (R275). -/
def execNop (s : State) : Result := s.finish 4 1

/-- The two-byte no-op of the extended table (R276). -/
def execEdNop (s : State) : Result := s.finish 8 2

/-- `HALT`: `PC` goes back to the address of the `76` byte (R277). -/
def execHalt (s : State) : Result := State.finish { s with halted := true, pc := s.pc - 1 } 4 1

/-- `DI` (R278). -/
def execDi (s : State) : Result := State.finish { s with iff1 := false, iff2 := false } 4 1

/-- `EI`: with `EI_DELAY` the maskable interrupt is blocked for the following step (R279). -/
def execEi (s : State) : Result :=
  State.finish { s with iff1 := true, iff2 := true, intBlocked := s.intBlocked || Config.eiDelay } 4 1

/-- `IM 0` (R281). -/
def execIm0 (s : State) : Result := State.finish { s with im := .mode0 } 8 2

/-- `IM 1` (R281). -/
def execIm1 (s : State) : Result := State.finish { s with im := .mode1 } 8 2

/-- `IM 2` (R281). -/
def execIm2 (s : State) : Result := State.finish { s with im := .mode2 } 8 2

end Sys2Proof.Machine
end

