-- ==== Sys2Proof/Machine/Exchange.lean ====
section
/-! DEFINITION. The exchange, block transfer and block search group (42_exchange_block.md R200 to R213). -/

namespace Sys2Proof.Machine

/-- `EX DE,HL` (R200). -/
def execExDeHl (s : State) : Result := ((s.setDe s.hl).setHl s.de).finish 4 1

/-- `EX AF,AF'` (R201). -/
def execExAfAf (s : State) : Result :=
  State.finish
    { s with
      main := { s.main with a := s.shadow.a, f := s.shadow.f }
      shadow := { s.shadow with a := s.main.a, f := s.main.f } } 4 1

/-- `EXX`: all three pairs at once; `AF` and `AF'` stay (R202). -/
def execExx (s : State) : Result :=
  State.finish
    { s with
      main := { s.shadow with a := s.main.a, f := s.main.f }
      shadow := { s.main with a := s.shadow.a, f := s.shadow.f } } 4 1

/-- Exchange a 16-bit value with the word on the stack: read low then high, write high then low (R203); gives the word
that was on the stack. `SP` is not changed. -/
def State.exchangeStack (s : State) (v : Word) : Word × State :=
  let (t, s) := s.memRead16 s.sp
  (t, (s.memWrite (s.sp + 1) (hi v)).memWrite s.sp (lo v))

/-- `EX (SP),HL` (R203). -/
def execExIndSpHl (s : State) : Result :=
  let (t, s) := s.exchangeStack s.hl
  ((s.setHl t).setWz t).finish 19 1

/-- `EX (SP),IX`, `EX (SP),IY` (R204). -/
def execExIndSpXy (xy : IndexReg) (s : State) : Result :=
  let (t, s) := s.exchangeStack (s.xy xy)
  ((s.setXy xy t).setWz t).finish 23 2

/-! ### Block transfer and search (R205 to R213) -/

/-- The direction of a block instruction as the word added to its pointers. -/
def forwards : Word := 1
/-- The other direction. -/
def backwards : Word := -1

/-- One transfer: the effect of `LDI` and `LDD` (R205, R207). -/
def State.ldBlock (s : State) (dir : Word) : State :=
  let (t, s) := s.memRead s.hl
  let s := s.memWrite s.de t
  let s := s.setHl (s.hl + dir)
  let s := s.setDe (s.de + dir)
  let s := s.setBc (s.bc - 1)
  s.setF (ldBlockFlags s.main.f s.main.a t (s.bc ≠ 0))

/-- One comparison: the effect of `CPI` and `CPD` (R210, R212); gives the difference `r`. -/
def State.cpBlock (s : State) (dir : Word) : Byte × State :=
  let (t, s) := s.memRead s.hl
  let s := s.setHl (s.hl + dir)
  let s := s.setBc (s.bc - 1)
  let s := s.setF (cpBlockFlags s.main.f s.main.a t (s.bc ≠ 0))
  (s.main.a - t, s.setWz (s.wz + dir))

/-- `PC <- PC - 2`: the address of the `ED` byte (R209). -/
def State.rewind (s : State) : State := { s with pc := s.pc - 2 }

/-- End a block transfer or search that repeats while `again`: `PC <- PC - 2; WZ <- PC + 1` and 21 T-states, else 16
(R206, R209, R211). -/
def State.finishRepeat (s : State) (again : Bool) : Result :=
  if again then (s.rewind.setWz (s.rewind.pc + 1)).finish 21 2 else s.finish 16 2

/-- `LDI` (R205). -/
def execLdi (s : State) : Result := (s.ldBlock forwards).finish 16 2

/-- `LDIR`: repeats while `BC` is not 0 (R206). -/
def execLdir (s : State) : Result :=
  let s := s.ldBlock forwards
  s.finishRepeat (s.bc ≠ 0)

/-- `LDD` (R207). -/
def execLdd (s : State) : Result := (s.ldBlock backwards).finish 16 2

/-- `LDDR` (R208). -/
def execLddr (s : State) : Result :=
  let s := s.ldBlock backwards
  s.finishRepeat (s.bc ≠ 0)

/-- `CPI` (R210). -/
def execCpi (s : State) : Result := (s.cpBlock forwards).2.finish 16 2

/-- `CPIR`: repeats while `BC` is not 0 and the byte differs (R211). -/
def execCpir (s : State) : Result :=
  let (r, s) := s.cpBlock forwards
  s.finishRepeat (s.bc ≠ 0 && r ≠ 0)

/-- `CPD` (R212). -/
def execCpd (s : State) : Result := (s.cpBlock backwards).2.finish 16 2

/-- `CPDR` (R213). -/
def execCpdr (s : State) : Result :=
  let (r, s) := s.cpBlock backwards
  s.finishRepeat (s.bc ≠ 0 && r ≠ 0)

end Sys2Proof.Machine
end

