-- ==== Sys2Proof/Machine/Io.lean ====
section
/-! DEFINITION. The input and output group (49_io.md R410 to R424). -/

namespace Sys2Proof.Machine

/-- `IN A,(n)`: the port address `A:n` is formed before `A` is overwritten (R410). -/
def execInAIndN (n : Byte) (s : State) : Result :=
  let p := join s.main.a n
  let (v, s) := s.portRead p
  ((s.setReg .a v).setWz (p + 1)).finish 11 1

/-- `v <- PortRead(BC); WZ <- BC + 1; F` from `v` (R411, R412); gives `v`. -/
def State.inC (s : State) : Byte × State :=
  let p := s.bc
  let (v, s) := s.portRead p
  (v, (s.setWz (p + 1)).setF (byteFlags v s.main.f))

/-- `IN r,(C)` (R411). -/
def execInRIndC (r : Reg8) (s : State) : Result :=
  let (v, s) := s.inC
  (s.setReg r v).finish 12 2

/-- `IN (C)`: the value is stored nowhere (R412). -/
def execInIndC (s : State) : Result := s.inC.2.finish 12 2

/-- `OUT (n),A`: no carry into the high byte of `WZ` (R413). -/
def execOutIndNA (n : Byte) (s : State) : Result :=
  ((s.portWrite (join s.main.a n) s.main.a).setWz (join s.main.a (n + 1))).finish 11 1

/-- `OUT (C),r` (R414). -/
def execOutIndCR (r : Reg8) (s : State) : Result := ((s.portWrite s.bc (s.reg r)).setWz (s.bc + 1)).finish 12 2

/-- `OUT (C),0` (R415). -/
def execOutIndC0 (s : State) : Result := ((s.portWrite s.bc 0x00).setWz (s.bc + 1)).finish 12 2

/-! ### Block transfers (R416 to R424) -/

/-- One input: the effect of `INI` and `IND`; the port address uses `B` before the decrement (R417, R419). -/
def State.inBlock (s : State) (dir : Word) : State :=
  let p := s.bc
  let (t, s) := s.portRead p
  let s := s.setWz (p + dir)
  let s := s.memWrite s.hl t
  let s := s.setHl (s.hl + dir)
  let s := s.setReg .b (s.main.b - 1)
  s.setF (blockIoFlags t (t.toNat + (s.main.c + lo dir).toNat) s.main.b)

/-- One output: the effect of `OUTI` and `OUTD`; the port address uses `B` after the decrement (R421, R423). -/
def State.outBlock (s : State) (dir : Word) : State :=
  let (t, s) := s.memRead s.hl
  let s := s.setReg .b (s.main.b - 1)
  let s := s.portWrite s.bc t
  let s := s.setHl (s.hl + dir)
  let s := s.setWz (s.bc + dir)
  s.setF (blockIoFlags t (t.toNat + s.main.l.toNat) s.main.b)

/-- End a block input or output that repeats while `B` is not 0: `PC <- PC - 2` and 21 T-states, else 16; the repeat does
not write `WZ` (R418, R422). -/
def State.finishRepeatIo (s : State) : Result :=
  if s.main.b ≠ 0 then s.rewind.finish 21 2 else s.finish 16 2

/-- `INI` (R417). -/
def execIni (s : State) : Result := (s.inBlock forwards).finish 16 2

/-- `INIR` (R418). -/
def execInir (s : State) : Result := (s.inBlock forwards).finishRepeatIo

/-- `IND` (R419). -/
def execInd (s : State) : Result := (s.inBlock backwards).finish 16 2

/-- `INDR` (R420). -/
def execIndr (s : State) : Result := (s.inBlock backwards).finishRepeatIo

/-- `OUTI` (R421). -/
def execOuti (s : State) : Result := (s.outBlock forwards).finish 16 2

/-- `OTIR` (R422). -/
def execOtir (s : State) : Result := (s.outBlock forwards).finishRepeatIo

/-- `OUTD` (R423). -/
def execOutd (s : State) : Result := (s.outBlock backwards).finish 16 2

/-- `OTDR` (R424). -/
def execOtdr (s : State) : Result := (s.outBlock backwards).finishRepeatIo

end Sys2Proof.Machine
end

