-- ==== Sys2Proof/Machine/Jump.lean ====
section
/-! DEFINITION. The jump, call and return group (48_jump_call_return.md R380 to R394). A handler runs with `PC` at the address of the
next instruction. -/

namespace Sys2Proof.Machine

/-- `PC <- v; WZ <- v`. -/
def State.jump (s : State) (v : Word) : State := { s with pc := v, wz := v }

/-- The target of a relative jump: the address after the instruction plus the displacement (R102, R383). -/
def State.relative (s : State) (e : Byte) : Word := s.pc + sext8 e

/-- `push16(PC); PC <- v`. -/
def State.call (s : State) (v : Word) : State := { s.push16 s.pc with pc := v }

/-- `PC <- pop16(); WZ <- PC`. -/
def State.ret (s : State) : State :=
  let (v, s) := s.pop16
  s.jump v

/-- `JP nn` (R381). -/
def execJpNn (nn : Word) (s : State) : Result := (s.jump nn).finish 10 1

/-- `JP cc,nn`: `WZ <- nn`, taken or not (R382). -/
def execJpCcNn (cc : Cond) (nn : Word) (s : State) : Result :=
  let s := s.setWz nn
  if condHolds cc s.main.f then (s.jump nn).finish 10 1 else s.finish 10 1

/-- `JR e` (R383). -/
def execJr (e : Byte) (s : State) : Result := (s.jump (s.relative e)).finish 12 1

/-- `JR cc,e` (R384). -/
def execJrCc (cc : Cond) (e : Byte) (s : State) : Result :=
  if condHolds cc s.main.f then (s.jump (s.relative e)).finish 12 1 else s.finish 7 1

/-- `JP (HL)`: no memory is read (R385). -/
def execJpIndHl (s : State) : Result := State.finish { s with pc := s.hl } 4 1

/-- `JP (IX)`, `JP (IY)` (R386). -/
def execJpIndXy (xy : IndexReg) (s : State) : Result := State.finish { s with pc := s.xy xy } 8 2

/-- `DJNZ e`: the decrement writes no flag (R387). -/
def execDjnz (e : Byte) (s : State) : Result :=
  let s := s.setReg .b (s.main.b - 1)
  if s.main.b ≠ 0 then (s.jump (s.relative e)).finish 13 1 else s.finish 8 1

/-- `CALL nn` (R388). -/
def execCallNn (nn : Word) (s : State) : Result := ((s.setWz nn).call nn).finish 17 1

/-- `CALL cc,nn`: `WZ <- nn`, taken or not (R389). -/
def execCallCcNn (cc : Cond) (nn : Word) (s : State) : Result :=
  let s := s.setWz nn
  if condHolds cc s.main.f then (s.call nn).finish 17 1 else s.finish 10 1

/-- `RET` (R390). -/
def execRet (s : State) : Result := s.ret.finish 10 1

/-- `RET cc` (R391). -/
def execRetCc (cc : Cond) (s : State) : Result := if condHolds cc s.main.f then s.ret.finish 11 1 else s.finish 5 1

/-- `RETI`: also `IFF1 <- IFF2` (R392). -/
def execReti (s : State) : Result := s.returnFromSignal.finish 14 2

/-- `RETN`: also `IFF1 <- IFF2` (R393). -/
def execRetn (s : State) : Result := s.returnFromSignal.finish 14 2

/-- The target of `RST p`, whose field holds `p / 8` (R127). -/
def rstTarget (p : BitVec 3) : Word := p.setWidth 16 <<< 3

/-- `RST p` (R394). -/
def execRst (p : BitVec 3) (s : State) : Result := ((s.call (rstTarget p)).setWz (rstTarget p)).finish 11 1

end Sys2Proof.Machine
end

