-- ==== Sys2Proof/Machine/Load16.lean ====
section
/-! DEFINITION. The 16-bit load group, `PUSH` and `POP` (41_load16_stack.md R170 to R183). -/

namespace Sys2Proof.Machine

/-- `LD dd,nn` (R170). -/
def execLdDdNn (dd : Pair) (nn : Word) (s : State) : Result := (s.setPair dd nn).finish 10 1

/-- `LD IX,nn`, `LD IY,nn` (R171). -/
def execLdXyNn (xy : IndexReg) (nn : Word) (s : State) : Result := (s.setXy xy nn).finish 14 2

/-- `LD HL,(nn)` (R172). -/
def execLdHlIndNn (nn : Word) (s : State) : Result :=
  let (v, s) := s.memRead16 nn
  ((s.setHl v).setWz (nn + 1)).finish 16 1

/-- `LD dd,(nn)`: the real `HL` for `dd = HL`, also after an index prefix (R173). -/
def execLdDdIndNn (dd : Pair) (nn : Word) (s : State) : Result :=
  let (v, s) := s.memRead16 nn
  ((s.setPair dd v).setWz (nn + 1)).finish 20 2

/-- `LD IX,(nn)`, `LD IY,(nn)` (R174). -/
def execLdXyIndNn (xy : IndexReg) (nn : Word) (s : State) : Result :=
  let (v, s) := s.memRead16 nn
  ((s.setXy xy v).setWz (nn + 1)).finish 20 2

/-- `LD (nn),HL` (R175). -/
def execLdIndNnHl (nn : Word) (s : State) : Result := ((s.memWrite16 nn s.hl).setWz (nn + 1)).finish 16 1

/-- `LD (nn),dd` (R176). -/
def execLdIndNnDd (dd : Pair) (nn : Word) (s : State) : Result :=
  ((s.memWrite16 nn (s.pair dd)).setWz (nn + 1)).finish 20 2

/-- `LD (nn),IX`, `LD (nn),IY` (R177). -/
def execLdIndNnXy (xy : IndexReg) (nn : Word) (s : State) : Result :=
  ((s.memWrite16 nn (s.xy xy)).setWz (nn + 1)).finish 20 2

/-- `LD SP,HL` (R178). -/
def execLdSpHl (s : State) : Result := State.finish { s with sp := s.hl } 6 1

/-- `LD SP,IX`, `LD SP,IY` (R179). -/
def execLdSpXy (xy : IndexReg) (s : State) : Result := State.finish { s with sp := s.xy xy } 10 2

/-- `PUSH qq` (R180). -/
def execPushQq (qq : StackPair) (s : State) : Result := (s.push16 (s.stackPair qq)).finish 11 1

/-- `PUSH IX`, `PUSH IY` (R181). -/
def execPushXy (xy : IndexReg) (s : State) : Result := (s.push16 (s.xy xy)).finish 15 2

/-- `POP qq` (R182). -/
def execPopQq (qq : StackPair) (s : State) : Result :=
  let (v, s) := s.pop16
  (s.setStackPair qq v).finish 10 1

/-- `POP IX`, `POP IY` (R183). -/
def execPopXy (xy : IndexReg) (s : State) : Result :=
  let (v, s) := s.pop16
  (s.setXy xy v).finish 14 2

end Sys2Proof.Machine
end

