-- ==== Sys2Proof/Machine/Load8.lean ====
section
/-! DEFINITION. The 8-bit load group (40_load8.md R140 to R157). `finish T k` charges the total `T` of the rule less its `k` opcode
fetches, which their own steps have charged (R501). -/

namespace Sys2Proof.Machine

/-- `LD r,r'` (R140). -/
def execLdRR (y z : Reg8) (s : State) : Result := (s.setReg y (s.reg z)).finish 4 1

/-- `LD r,r'` with `IXH`/`IXL` or `IYH`/`IYL` in place of `H`/`L` (R140, R114 item 3). -/
def execLdRRXy (xy : IndexReg) (y z : Reg8) (s : State) : Result :=
  (s.setIndexedReg xy y (s.indexedReg xy z)).finish 8 2

/-- `LD r,n` (R141). -/
def execLdRN (r : Reg8) (n : Byte) (s : State) : Result := (s.setReg r n).finish 7 1

/-- `LD IXH,n`, `LD IXL,n` and the `IY` forms (R141). -/
def execLdXyHalfN (xy : IndexReg) (h : Half) (n : Byte) (s : State) : Result := (s.setHalf xy h n).finish 11 2

/-- `LD r,(HL)` (R142). -/
def execLdRIndHl (r : Reg8) (s : State) : Result :=
  let (v, s) := s.memRead s.hl
  (s.setReg r v).finish 7 1

/-- `LD r,(IX+d)`, `LD r,(IY+d)`: always the real register (R143). -/
def execLdRIndXy (xy : IndexReg) (r : Reg8) (d : Byte) (s : State) : Result :=
  let (ea, s) := s.indexedAddress xy d
  let (v, s) := s.memRead ea
  (s.setReg r v).finish 19 2

/-- `LD (HL),r` (R144). -/
def execLdIndHlR (r : Reg8) (s : State) : Result := (s.memWrite s.hl (s.reg r)).finish 7 1

/-- `LD (IX+d),r`, `LD (IY+d),r`: always the real register (R145). -/
def execLdIndXyR (xy : IndexReg) (d : Byte) (r : Reg8) (s : State) : Result :=
  let (ea, s) := s.indexedAddress xy d
  (s.memWrite ea (s.reg r)).finish 19 2

/-- `LD (HL),n` (R146). -/
def execLdIndHlN (n : Byte) (s : State) : Result := (s.memWrite s.hl n).finish 10 1

/-- `LD (IX+d),n`, `LD (IY+d),n` (R147). -/
def execLdIndXyN (xy : IndexReg) (d n : Byte) (s : State) : Result :=
  let (ea, s) := s.indexedAddress xy d
  (s.memWrite ea n).finish 19 2

/-- `A <- MemRead(a, 1); WZ <- a + 1` (R148 to R150). -/
def State.loadA (s : State) (a : Word) : State :=
  let (v, s) := s.memRead a
  (s.setReg .a v).setWz (a + 1)

/-- `MemWrite(a, 1, A); Z <- lo(a + 1); W <- A` (R151 to R153). -/
def State.storeA (s : State) (a : Word) : State :=
  (s.memWrite a s.main.a).setWz (join s.main.a (lo (a + 1)))

/-- `LD A,(BC)` (R148). -/
def execLdAIndBc (s : State) : Result := (s.loadA s.bc).finish 7 1

/-- `LD A,(DE)` (R149). -/
def execLdAIndDe (s : State) : Result := (s.loadA s.de).finish 7 1

/-- `LD A,(nn)` (R150). -/
def execLdAIndNn (nn : Word) (s : State) : Result := (s.loadA nn).finish 13 1

/-- `LD (BC),A` (R151). -/
def execLdIndBcA (s : State) : Result := (s.storeA s.bc).finish 7 1

/-- `LD (DE),A` (R152). -/
def execLdIndDeA (s : State) : Result := (s.storeA s.de).finish 7 1

/-- `LD (nn),A` (R153). -/
def execLdIndNnA (nn : Word) (s : State) : Result := (s.storeA nn).finish 13 1

/-- `LD A,I` (R154). -/
def execLdAI (s : State) : Result := (s.setAF (s.i, ldAIRFlags s.i s.main.f s.iff2)).finish 9 2

/-- `LD A,R`: `R` after the two opcode fetches of the instruction (R155). -/
def execLdAR (s : State) : Result := (s.setAF (s.r, ldAIRFlags s.r s.main.f s.iff2)).finish 9 2

/-- `LD I,A` (R156). -/
def execLdIA (s : State) : Result := State.finish { s with i := s.main.a } 9 2

/-- `LD R,A`: all 8 bits (R157). -/
def execLdRA (s : State) : Result := State.finish { s with r := s.main.a } 9 2

end Sys2Proof.Machine
end

