-- ==== Sys2Proof/Machine/Rotate.lean ====
section
/-! DEFINITION. The rotate and shift group (46_rotate_shift.md R320 to R335): each operation in the operand forms of R325. -/

namespace Sys2Proof.Machine

/-- `RLCA` (R320). -/
def execRlca (s : State) : Result := (s.setAF (rotAFlags .rlc s.main.a s.main.f)).finish 4 1

/-- `RLA` (R321). -/
def execRla (s : State) : Result := (s.setAF (rotAFlags .rl s.main.a s.main.f)).finish 4 1

/-- `RRCA` (R322). -/
def execRrca (s : State) : Result := (s.setAF (rotAFlags .rrc s.main.a s.main.f)).finish 4 1

/-- `RRA` (R323). -/
def execRra (s : State) : Result := (s.setAF (rotAFlags .rr s.main.a s.main.f)).finish 4 1

/-- `RLC r` (R326). -/
def execRlcR (r : Reg8) (s : State) : Result := (s.modifyReg (rotFlags .rlc) r).finish 8 2

/-- `RLC (HL)` (R326). -/
def execRlcIndHl (s : State) : Result := (s.modifyAt (rotFlags .rlc) s.hl).2.finish 15 2

/-- `RLC (IX+d)`, `RLC (IY+d)` (R326). -/
def execRlcIndXy (xy : IndexReg) (d : Byte) (s : State) : Result :=
  (s.modifyIndexed (rotFlags .rlc) xy d).2.finish 23 2

/-- `RLC (IX+d),r`: the result also goes to the real register (R326). -/
def execRlcIndXyR (xy : IndexReg) (d : Byte) (r : Reg8) (s : State) : Result :=
  let (v, s) := s.modifyIndexed (rotFlags .rlc) xy d
  (s.setReg r v).finish 23 2

/-- `RRC r` (R327). -/
def execRrcR (r : Reg8) (s : State) : Result := (s.modifyReg (rotFlags .rrc) r).finish 8 2

/-- `RRC (HL)` (R327). -/
def execRrcIndHl (s : State) : Result := (s.modifyAt (rotFlags .rrc) s.hl).2.finish 15 2

/-- `RRC (IX+d)`, `RRC (IY+d)` (R327). -/
def execRrcIndXy (xy : IndexReg) (d : Byte) (s : State) : Result :=
  (s.modifyIndexed (rotFlags .rrc) xy d).2.finish 23 2

/-- `RRC (IX+d),r`: the result also goes to the real register (R327). -/
def execRrcIndXyR (xy : IndexReg) (d : Byte) (r : Reg8) (s : State) : Result :=
  let (v, s) := s.modifyIndexed (rotFlags .rrc) xy d
  (s.setReg r v).finish 23 2

/-- `RL r` (R328). -/
def execRlR (r : Reg8) (s : State) : Result := (s.modifyReg (rotFlags .rl) r).finish 8 2

/-- `RL (HL)` (R328). -/
def execRlIndHl (s : State) : Result := (s.modifyAt (rotFlags .rl) s.hl).2.finish 15 2

/-- `RL (IX+d)`, `RL (IY+d)` (R328). -/
def execRlIndXy (xy : IndexReg) (d : Byte) (s : State) : Result := (s.modifyIndexed (rotFlags .rl) xy d).2.finish 23 2

/-- `RL (IX+d),r`: the result also goes to the real register (R328). -/
def execRlIndXyR (xy : IndexReg) (d : Byte) (r : Reg8) (s : State) : Result :=
  let (v, s) := s.modifyIndexed (rotFlags .rl) xy d
  (s.setReg r v).finish 23 2

/-- `RR r` (R329). -/
def execRrR (r : Reg8) (s : State) : Result := (s.modifyReg (rotFlags .rr) r).finish 8 2

/-- `RR (HL)` (R329). -/
def execRrIndHl (s : State) : Result := (s.modifyAt (rotFlags .rr) s.hl).2.finish 15 2

/-- `RR (IX+d)`, `RR (IY+d)` (R329). -/
def execRrIndXy (xy : IndexReg) (d : Byte) (s : State) : Result := (s.modifyIndexed (rotFlags .rr) xy d).2.finish 23 2

/-- `RR (IX+d),r`: the result also goes to the real register (R329). -/
def execRrIndXyR (xy : IndexReg) (d : Byte) (r : Reg8) (s : State) : Result :=
  let (v, s) := s.modifyIndexed (rotFlags .rr) xy d
  (s.setReg r v).finish 23 2

/-- `SLA r` (R330). -/
def execSlaR (r : Reg8) (s : State) : Result := (s.modifyReg (rotFlags .sla) r).finish 8 2

/-- `SLA (HL)` (R330). -/
def execSlaIndHl (s : State) : Result := (s.modifyAt (rotFlags .sla) s.hl).2.finish 15 2

/-- `SLA (IX+d)`, `SLA (IY+d)` (R330). -/
def execSlaIndXy (xy : IndexReg) (d : Byte) (s : State) : Result :=
  (s.modifyIndexed (rotFlags .sla) xy d).2.finish 23 2

/-- `SLA (IX+d),r`: the result also goes to the real register (R330). -/
def execSlaIndXyR (xy : IndexReg) (d : Byte) (r : Reg8) (s : State) : Result :=
  let (v, s) := s.modifyIndexed (rotFlags .sla) xy d
  (s.setReg r v).finish 23 2

/-- `SRA r` (R331). -/
def execSraR (r : Reg8) (s : State) : Result := (s.modifyReg (rotFlags .sra) r).finish 8 2

/-- `SRA (HL)` (R331). -/
def execSraIndHl (s : State) : Result := (s.modifyAt (rotFlags .sra) s.hl).2.finish 15 2

/-- `SRA (IX+d)`, `SRA (IY+d)` (R331). -/
def execSraIndXy (xy : IndexReg) (d : Byte) (s : State) : Result :=
  (s.modifyIndexed (rotFlags .sra) xy d).2.finish 23 2

/-- `SRA (IX+d),r`: the result also goes to the real register (R331). -/
def execSraIndXyR (xy : IndexReg) (d : Byte) (r : Reg8) (s : State) : Result :=
  let (v, s) := s.modifyIndexed (rotFlags .sra) xy d
  (s.setReg r v).finish 23 2

/-- `SLL r` (R332). -/
def execSllR (r : Reg8) (s : State) : Result := (s.modifyReg (rotFlags .sll) r).finish 8 2

/-- `SLL (HL)` (R332). -/
def execSllIndHl (s : State) : Result := (s.modifyAt (rotFlags .sll) s.hl).2.finish 15 2

/-- `SLL (IX+d)`, `SLL (IY+d)` (R332). -/
def execSllIndXy (xy : IndexReg) (d : Byte) (s : State) : Result :=
  (s.modifyIndexed (rotFlags .sll) xy d).2.finish 23 2

/-- `SLL (IX+d),r`: the result also goes to the real register (R332). -/
def execSllIndXyR (xy : IndexReg) (d : Byte) (r : Reg8) (s : State) : Result :=
  let (v, s) := s.modifyIndexed (rotFlags .sll) xy d
  (s.setReg r v).finish 23 2

/-- `SRL r` (R333). -/
def execSrlR (r : Reg8) (s : State) : Result := (s.modifyReg (rotFlags .srl) r).finish 8 2

/-- `SRL (HL)` (R333). -/
def execSrlIndHl (s : State) : Result := (s.modifyAt (rotFlags .srl) s.hl).2.finish 15 2

/-- `SRL (IX+d)`, `SRL (IY+d)` (R333). -/
def execSrlIndXy (xy : IndexReg) (d : Byte) (s : State) : Result :=
  (s.modifyIndexed (rotFlags .srl) xy d).2.finish 23 2

/-- `SRL (IX+d),r`: the result also goes to the real register (R333). -/
def execSrlIndXyR (xy : IndexReg) (d : Byte) (r : Reg8) (s : State) : Result :=
  let (v, s) := s.modifyIndexed (rotFlags .srl) xy d
  (s.setReg r v).finish 23 2

/-- A digit rotate: `mem` and `acc` give the new byte at `HL` and the new accumulator from the byte read and the old
accumulator (R334, R335). -/
def State.digitRotate (s : State) (mem acc : Byte → Byte → Byte) : State :=
  let (t, s) := s.memRead s.hl
  let s := s.memWrite s.hl (mem t s.main.a)
  let a := acc t s.main.a
  (s.setAF (a, byteFlags a s.main.f)).setWz (s.hl + 1)

/-- `RLD` (R334). -/
def execRld (s : State) : Result :=
  (s.digitRotate (fun t a => (t <<< 4) ||| (a &&& 0x0F)) (fun t a => (a &&& 0xF0) ||| (t >>> 4))).finish 18 2

/-- `RRD` (R335). -/
def execRrd (s : State) : Result :=
  (s.digitRotate (fun t a => (a <<< 4) ||| (t >>> 4)) (fun t a => (a &&& 0xF0) ||| (t &&& 0x0F))).finish 18 2

end Sys2Proof.Machine
end

