-- ==== Sys2Proof/Machine/Prefix.lean ====
section
/-! DEFINITION. The prefix bytes (30_encoding.md R112, R113, R117) and the two slots of the indexed table that hand over to
another table (R114 items 4 and 5, R115). -/

namespace Sys2Proof.Machine

/-- A step that consumed a prefix byte selecting a table: `PREFIX <- m`, `INT_BLOCKED <- true`; `INDEX` is kept and
nothing is dispatched (R113, R451). -/
def State.selectTable (s : State) (m : PrefixMode) : Result :=
  .next { s with prefixMode := m, intBlocked := true }

/-- A step that consumed an index prefix byte: `INDEX <- xy`, `INT_BLOCKED <- true`; the last one wins (R112, R451). -/
def State.selectIndex (s : State) (xy : IndexReg) : Result :=
  .next { s with indexMode := some xy, intBlocked := true }

/-- The prefix byte `CB` with no index mode set (R113). -/
def execPrefixCb (s : State) : Result := s.selectTable .bit

/-- The prefix byte `ED` (R113). -/
def execPrefixEd (s : State) : Result := s.selectTable .extended

/-- The prefix byte `DD` (R112). -/
def execPrefixDd (s : State) : Result := s.selectIndex .ix

/-- The prefix byte `FD` (R112). -/
def execPrefixFd (s : State) : Result := s.selectIndex .iy

/-- `DD` after an index prefix: replaces it (R112, R117). -/
def execXyPrefixDd (s : State) : Result := s.selectIndex .ix

/-- `FD` after an index prefix: replaces it (R112, R117). -/
def execXyPrefixFd (s : State) : Result := s.selectIndex .iy

/-- `ED` after an index prefix: `INDEX` is kept and never read (R113, R117). -/
def execXyPrefixEd (s : State) : Result := s.selectTable .extended

/-- The handler of a standard-table slot that an index prefix leaves unchanged (R114 items 4 and 5); any other term is no
such slot. -/
def execStandardSlot (i : Instr) (s : State) : Result :=
  match i with
  | .nop => execNop s
  | .exAfAf => execExAfAf s
  | .djnz e => execDjnz e s
  | .jr e => execJr e s
  | .jrCc cc e => execJrCc cc e s
  | .ldDdNn dd nn => execLdDdNn dd nn s
  | .ldIndBcA => execLdIndBcA s
  | .ldIndDeA => execLdIndDeA s
  | .ldIndNnA nn => execLdIndNnA nn s
  | .ldAIndBc => execLdAIndBc s
  | .ldAIndDe => execLdAIndDe s
  | .ldAIndNn nn => execLdAIndNn nn s
  | .incSs ss => execIncSs ss s
  | .decSs ss => execDecSs ss s
  | .incR r => execIncR r s
  | .decR r => execDecR r s
  | .ldRN r n => execLdRN r n s
  | .rlca => execRlca s
  | .rrca => execRrca s
  | .rla => execRla s
  | .rra => execRra s
  | .daa => execDaa s
  | .cpl => execCpl s
  | .scf => execScf s
  | .ccf => execCcf s
  | .halt => execHalt s
  | .ldRR y z => execLdRR y z s
  | .addR r => execAddR r s
  | .adcR r => execAdcR r s
  | .subR r => execSubR r s
  | .sbcR r => execSbcR r s
  | .andR r => execAndR r s
  | .xorR r => execXorR r s
  | .orR r => execOrR r s
  | .cpR r => execCpR r s
  | .retCc cc => execRetCc cc s
  | .popQq qq => execPopQq qq s
  | .ret => execRet s
  | .exx => execExx s
  | .jpCcNn cc nn => execJpCcNn cc nn s
  | .jpNn nn => execJpNn nn s
  | .outIndNA n => execOutIndNA n s
  | .inAIndN n => execInAIndN n s
  | .exDeHl => execExDeHl s
  | .di => execDi s
  | .ei => execEi s
  | .callCcNn cc nn => execCallCcNn cc nn s
  | .pushQq qq => execPushQq qq s
  | .callNn nn => execCallNn nn s
  | .addN n => execAddN n s
  | .adcN n => execAdcN n s
  | .subN n => execSubN n s
  | .sbcN n => execSbcN n s
  | .andN n => execAndN n s
  | .xorN n => execXorN n s
  | .orN n => execOrN n s
  | .cpN n => execCpN n s
  | .rst p => execRst p s
  | _ => .refused .notASlot

/-- The handler of an indexed-bit slot (R115, R125); any other term is no such slot. -/
def execIndexedBitSlot (i : Instr) (s : State) : Result :=
  match i with
  | .rlcIndXy xy d => execRlcIndXy xy d s
  | .rlcIndXyR xy d r => execRlcIndXyR xy d r s
  | .rrcIndXy xy d => execRrcIndXy xy d s
  | .rrcIndXyR xy d r => execRrcIndXyR xy d r s
  | .rlIndXy xy d => execRlIndXy xy d s
  | .rlIndXyR xy d r => execRlIndXyR xy d r s
  | .rrIndXy xy d => execRrIndXy xy d s
  | .rrIndXyR xy d r => execRrIndXyR xy d r s
  | .slaIndXy xy d => execSlaIndXy xy d s
  | .slaIndXyR xy d r => execSlaIndXyR xy d r s
  | .sraIndXy xy d => execSraIndXy xy d s
  | .sraIndXyR xy d r => execSraIndXyR xy d r s
  | .sllIndXy xy d => execSllIndXy xy d s
  | .sllIndXyR xy d r => execSllIndXyR xy d r s
  | .srlIndXy xy d => execSrlIndXy xy d s
  | .srlIndXyR xy d r => execSrlIndXyR xy d r s
  | .bitIndXy xy b d _ => execBitIndXy xy b d s
  | .resIndXy xy b d => execResIndXy xy b d s
  | .resIndXyR xy b d r => execResIndXyR xy b d r s
  | .setIndXy xy b d => execSetIndXy xy b d s
  | .setIndXyR xy b d r => execSetIndXyR xy b d r s
  | _ => .refused .notASlot

/-- A slot of the indexed table that executes "exactly as in the standard table" (R114 items 4 and 5, R117). -/
def execXyStandard (i : Instr) (s : State) : Result := execStandardSlot i s

/-- The slot `CB` of the indexed table: `d` and the opcode byte are fetched in the same step and select an indexed-bit
handler (R110, R115). -/
def execIndexedBit (i : Instr) (s : State) : Result := execIndexedBitSlot i s

end Sys2Proof.Machine
end

