-- ==== Sys2Proof/Machine/Dispatch.lean ====
section
/-! DEFINITION. Running an instruction: one arm per constructor of `Instr`, each one call of its meaning. -/

namespace Sys2Proof.Machine

def exec (i : Instr) (s : State) : Host.Outcome State Fault Refusal :=
  match i with
  | .nop => Sys2Proof.Machine.execNop s
  | .exAfAf => Sys2Proof.Machine.execExAfAf s
  | .djnz e => Sys2Proof.Machine.execDjnz e s
  | .jr e => Sys2Proof.Machine.execJr e s
  | .jrCc cc e => Sys2Proof.Machine.execJrCc cc e s
  | .ldDdNn dd nn => Sys2Proof.Machine.execLdDdNn dd nn s
  | .addHlSs ss => Sys2Proof.Machine.execAddHlSs ss s
  | .ldIndBcA => Sys2Proof.Machine.execLdIndBcA s
  | .ldIndDeA => Sys2Proof.Machine.execLdIndDeA s
  | .ldIndNnHl nn => Sys2Proof.Machine.execLdIndNnHl nn s
  | .ldIndNnA nn => Sys2Proof.Machine.execLdIndNnA nn s
  | .ldAIndBc => Sys2Proof.Machine.execLdAIndBc s
  | .ldAIndDe => Sys2Proof.Machine.execLdAIndDe s
  | .ldHlIndNn nn => Sys2Proof.Machine.execLdHlIndNn nn s
  | .ldAIndNn nn => Sys2Proof.Machine.execLdAIndNn nn s
  | .incSs ss => Sys2Proof.Machine.execIncSs ss s
  | .decSs ss => Sys2Proof.Machine.execDecSs ss s
  | .incR r => Sys2Proof.Machine.execIncR r s
  | .incIndHl => Sys2Proof.Machine.execIncIndHl s
  | .decR r => Sys2Proof.Machine.execDecR r s
  | .decIndHl => Sys2Proof.Machine.execDecIndHl s
  | .ldRN r n => Sys2Proof.Machine.execLdRN r n s
  | .ldIndHlN n => Sys2Proof.Machine.execLdIndHlN n s
  | .rlca => Sys2Proof.Machine.execRlca s
  | .rrca => Sys2Proof.Machine.execRrca s
  | .rla => Sys2Proof.Machine.execRla s
  | .rra => Sys2Proof.Machine.execRra s
  | .daa => Sys2Proof.Machine.execDaa s
  | .cpl => Sys2Proof.Machine.execCpl s
  | .scf => Sys2Proof.Machine.execScf s
  | .ccf => Sys2Proof.Machine.execCcf s
  | .halt => Sys2Proof.Machine.execHalt s
  | .ldIndHlR r => Sys2Proof.Machine.execLdIndHlR r s
  | .ldRIndHl r => Sys2Proof.Machine.execLdRIndHl r s
  | .ldRR y z => Sys2Proof.Machine.execLdRR y z s
  | .addR r => Sys2Proof.Machine.execAddR r s
  | .addIndHl => Sys2Proof.Machine.execAddIndHl s
  | .adcR r => Sys2Proof.Machine.execAdcR r s
  | .adcIndHl => Sys2Proof.Machine.execAdcIndHl s
  | .subR r => Sys2Proof.Machine.execSubR r s
  | .subIndHl => Sys2Proof.Machine.execSubIndHl s
  | .sbcR r => Sys2Proof.Machine.execSbcR r s
  | .sbcIndHl => Sys2Proof.Machine.execSbcIndHl s
  | .andR r => Sys2Proof.Machine.execAndR r s
  | .andIndHl => Sys2Proof.Machine.execAndIndHl s
  | .xorR r => Sys2Proof.Machine.execXorR r s
  | .xorIndHl => Sys2Proof.Machine.execXorIndHl s
  | .orR r => Sys2Proof.Machine.execOrR r s
  | .orIndHl => Sys2Proof.Machine.execOrIndHl s
  | .cpR r => Sys2Proof.Machine.execCpR r s
  | .cpIndHl => Sys2Proof.Machine.execCpIndHl s
  | .retCc cc => Sys2Proof.Machine.execRetCc cc s
  | .popQq qq => Sys2Proof.Machine.execPopQq qq s
  | .ret => Sys2Proof.Machine.execRet s
  | .exx => Sys2Proof.Machine.execExx s
  | .jpIndHl => Sys2Proof.Machine.execJpIndHl s
  | .ldSpHl => Sys2Proof.Machine.execLdSpHl s
  | .jpCcNn cc nn => Sys2Proof.Machine.execJpCcNn cc nn s
  | .jpNn nn => Sys2Proof.Machine.execJpNn nn s
  | .prefixCb => Sys2Proof.Machine.execPrefixCb s
  | .outIndNA n => Sys2Proof.Machine.execOutIndNA n s
  | .inAIndN n => Sys2Proof.Machine.execInAIndN n s
  | .exIndSpHl => Sys2Proof.Machine.execExIndSpHl s
  | .exDeHl => Sys2Proof.Machine.execExDeHl s
  | .di => Sys2Proof.Machine.execDi s
  | .ei => Sys2Proof.Machine.execEi s
  | .callCcNn cc nn => Sys2Proof.Machine.execCallCcNn cc nn s
  | .pushQq qq => Sys2Proof.Machine.execPushQq qq s
  | .callNn nn => Sys2Proof.Machine.execCallNn nn s
  | .prefixDd => Sys2Proof.Machine.execPrefixDd s
  | .prefixEd => Sys2Proof.Machine.execPrefixEd s
  | .prefixFd => Sys2Proof.Machine.execPrefixFd s
  | .addN n => Sys2Proof.Machine.execAddN n s
  | .adcN n => Sys2Proof.Machine.execAdcN n s
  | .subN n => Sys2Proof.Machine.execSubN n s
  | .sbcN n => Sys2Proof.Machine.execSbcN n s
  | .andN n => Sys2Proof.Machine.execAndN n s
  | .xorN n => Sys2Proof.Machine.execXorN n s
  | .orN n => Sys2Proof.Machine.execOrN n s
  | .cpN n => Sys2Proof.Machine.execCpN n s
  | .rst p => Sys2Proof.Machine.execRst p s
  | .rlcR r => Sys2Proof.Machine.execRlcR r s
  | .rlcIndHl => Sys2Proof.Machine.execRlcIndHl s
  | .rrcR r => Sys2Proof.Machine.execRrcR r s
  | .rrcIndHl => Sys2Proof.Machine.execRrcIndHl s
  | .rlR r => Sys2Proof.Machine.execRlR r s
  | .rlIndHl => Sys2Proof.Machine.execRlIndHl s
  | .rrR r => Sys2Proof.Machine.execRrR r s
  | .rrIndHl => Sys2Proof.Machine.execRrIndHl s
  | .slaR r => Sys2Proof.Machine.execSlaR r s
  | .slaIndHl => Sys2Proof.Machine.execSlaIndHl s
  | .sraR r => Sys2Proof.Machine.execSraR r s
  | .sraIndHl => Sys2Proof.Machine.execSraIndHl s
  | .sllR r => Sys2Proof.Machine.execSllR r s
  | .sllIndHl => Sys2Proof.Machine.execSllIndHl s
  | .srlR r => Sys2Proof.Machine.execSrlR r s
  | .srlIndHl => Sys2Proof.Machine.execSrlIndHl s
  | .bitR b r => Sys2Proof.Machine.execBitR b r s
  | .bitIndHl b => Sys2Proof.Machine.execBitIndHl b s
  | .resR b r => Sys2Proof.Machine.execResR b r s
  | .resIndHl b => Sys2Proof.Machine.execResIndHl b s
  | .setR b r => Sys2Proof.Machine.execSetR b r s
  | .setIndHl b => Sys2Proof.Machine.execSetIndHl b s
  | .inRIndC r => Sys2Proof.Machine.execInRIndC r s
  | .inIndC => Sys2Proof.Machine.execInIndC s
  | .outIndCR r => Sys2Proof.Machine.execOutIndCR r s
  | .outIndC0 => Sys2Proof.Machine.execOutIndC0 s
  | .sbcHlSs ss => Sys2Proof.Machine.execSbcHlSs ss s
  | .adcHlSs ss => Sys2Proof.Machine.execAdcHlSs ss s
  | .ldIndNnDd dd nn => Sys2Proof.Machine.execLdIndNnDd dd nn s
  | .ldDdIndNn dd nn => Sys2Proof.Machine.execLdDdIndNn dd nn s
  | .neg _ => Sys2Proof.Machine.execNeg s
  | .retn _ => Sys2Proof.Machine.execRetn s
  | .reti => Sys2Proof.Machine.execReti s
  | .im0 _ _ => Sys2Proof.Machine.execIm0 s
  | .im1 _ => Sys2Proof.Machine.execIm1 s
  | .im2 _ => Sys2Proof.Machine.execIm2 s
  | .ldIA => Sys2Proof.Machine.execLdIA s
  | .ldRA => Sys2Proof.Machine.execLdRA s
  | .ldAI => Sys2Proof.Machine.execLdAI s
  | .ldAR => Sys2Proof.Machine.execLdAR s
  | .rrd => Sys2Proof.Machine.execRrd s
  | .rld => Sys2Proof.Machine.execRld s
  | .ldi => Sys2Proof.Machine.execLdi s
  | .cpi => Sys2Proof.Machine.execCpi s
  | .ini => Sys2Proof.Machine.execIni s
  | .outi => Sys2Proof.Machine.execOuti s
  | .ldd => Sys2Proof.Machine.execLdd s
  | .cpd => Sys2Proof.Machine.execCpd s
  | .ind => Sys2Proof.Machine.execInd s
  | .outd => Sys2Proof.Machine.execOutd s
  | .ldir => Sys2Proof.Machine.execLdir s
  | .cpir => Sys2Proof.Machine.execCpir s
  | .inir => Sys2Proof.Machine.execInir s
  | .otir => Sys2Proof.Machine.execOtir s
  | .lddr => Sys2Proof.Machine.execLddr s
  | .cpdr => Sys2Proof.Machine.execCpdr s
  | .indr => Sys2Proof.Machine.execIndr s
  | .otdr => Sys2Proof.Machine.execOtdr s
  | .edNop _ => Sys2Proof.Machine.execEdNop s
  | .addXyPp xy pp => Sys2Proof.Machine.execAddXyPp xy pp s
  | .ldXyNn xy nn => Sys2Proof.Machine.execLdXyNn xy nn s
  | .ldIndNnXy xy nn => Sys2Proof.Machine.execLdIndNnXy xy nn s
  | .ldXyIndNn xy nn => Sys2Proof.Machine.execLdXyIndNn xy nn s
  | .incXy xy => Sys2Proof.Machine.execIncXy xy s
  | .decXy xy => Sys2Proof.Machine.execDecXy xy s
  | .incXyHalf xy h => Sys2Proof.Machine.execIncXyHalf xy h s
  | .decXyHalf xy h => Sys2Proof.Machine.execDecXyHalf xy h s
  | .ldXyHalfN xy h n => Sys2Proof.Machine.execLdXyHalfN xy h n s
  | .incIndXy xy d => Sys2Proof.Machine.execIncIndXy xy d s
  | .decIndXy xy d => Sys2Proof.Machine.execDecIndXy xy d s
  | .ldIndXyN xy d n => Sys2Proof.Machine.execLdIndXyN xy d n s
  | .ldRIndXy xy r d => Sys2Proof.Machine.execLdRIndXy xy r d s
  | .ldIndXyR xy d r => Sys2Proof.Machine.execLdIndXyR xy d r s
  | .ldRRXy xy y z => Sys2Proof.Machine.execLdRRXy xy y z s
  | .addXyHalf xy h => Sys2Proof.Machine.execAddXyHalf xy h s
  | .addIndXy xy d => Sys2Proof.Machine.execAddIndXy xy d s
  | .adcXyHalf xy h => Sys2Proof.Machine.execAdcXyHalf xy h s
  | .adcIndXy xy d => Sys2Proof.Machine.execAdcIndXy xy d s
  | .subXyHalf xy h => Sys2Proof.Machine.execSubXyHalf xy h s
  | .subIndXy xy d => Sys2Proof.Machine.execSubIndXy xy d s
  | .sbcXyHalf xy h => Sys2Proof.Machine.execSbcXyHalf xy h s
  | .sbcIndXy xy d => Sys2Proof.Machine.execSbcIndXy xy d s
  | .andXyHalf xy h => Sys2Proof.Machine.execAndXyHalf xy h s
  | .andIndXy xy d => Sys2Proof.Machine.execAndIndXy xy d s
  | .xorXyHalf xy h => Sys2Proof.Machine.execXorXyHalf xy h s
  | .xorIndXy xy d => Sys2Proof.Machine.execXorIndXy xy d s
  | .orXyHalf xy h => Sys2Proof.Machine.execOrXyHalf xy h s
  | .orIndXy xy d => Sys2Proof.Machine.execOrIndXy xy d s
  | .cpXyHalf xy h => Sys2Proof.Machine.execCpXyHalf xy h s
  | .cpIndXy xy d => Sys2Proof.Machine.execCpIndXy xy d s
  | .indexedBit _ j => Sys2Proof.Machine.execIndexedBit j s
  | .popXy xy => Sys2Proof.Machine.execPopXy xy s
  | .pushXy xy => Sys2Proof.Machine.execPushXy xy s
  | .exIndSpXy xy => Sys2Proof.Machine.execExIndSpXy xy s
  | .jpIndXy xy => Sys2Proof.Machine.execJpIndXy xy s
  | .ldSpXy xy => Sys2Proof.Machine.execLdSpXy xy s
  | .xyPrefixDd _ => Sys2Proof.Machine.execXyPrefixDd s
  | .xyPrefixFd _ => Sys2Proof.Machine.execXyPrefixFd s
  | .xyPrefixEd _ => Sys2Proof.Machine.execXyPrefixEd s
  | .xyStandard _ j => Sys2Proof.Machine.execXyStandard j s
  | .rlcIndXy xy d => Sys2Proof.Machine.execRlcIndXy xy d s
  | .rlcIndXyR xy d r => Sys2Proof.Machine.execRlcIndXyR xy d r s
  | .rrcIndXy xy d => Sys2Proof.Machine.execRrcIndXy xy d s
  | .rrcIndXyR xy d r => Sys2Proof.Machine.execRrcIndXyR xy d r s
  | .rlIndXy xy d => Sys2Proof.Machine.execRlIndXy xy d s
  | .rlIndXyR xy d r => Sys2Proof.Machine.execRlIndXyR xy d r s
  | .rrIndXy xy d => Sys2Proof.Machine.execRrIndXy xy d s
  | .rrIndXyR xy d r => Sys2Proof.Machine.execRrIndXyR xy d r s
  | .slaIndXy xy d => Sys2Proof.Machine.execSlaIndXy xy d s
  | .slaIndXyR xy d r => Sys2Proof.Machine.execSlaIndXyR xy d r s
  | .sraIndXy xy d => Sys2Proof.Machine.execSraIndXy xy d s
  | .sraIndXyR xy d r => Sys2Proof.Machine.execSraIndXyR xy d r s
  | .sllIndXy xy d => Sys2Proof.Machine.execSllIndXy xy d s
  | .sllIndXyR xy d r => Sys2Proof.Machine.execSllIndXyR xy d r s
  | .srlIndXy xy d => Sys2Proof.Machine.execSrlIndXy xy d s
  | .srlIndXyR xy d r => Sys2Proof.Machine.execSrlIndXyR xy d r s
  | .bitIndXy xy b d _ => Sys2Proof.Machine.execBitIndXy xy b d s
  | .resIndXy xy b d => Sys2Proof.Machine.execResIndXy xy b d s
  | .resIndXyR xy b d r => Sys2Proof.Machine.execResIndXyR xy b d r s
  | .setIndXy xy b d => Sys2Proof.Machine.execSetIndXy xy b d s
  | .setIndXyR xy b d r => Sys2Proof.Machine.execSetIndXyR xy b d r s

end Sys2Proof.Machine
end

