-- ==== Sys2Proof/Machine/Step.lean ====
section
/-! DEFINITION. The step function (30_encoding.md R110), the only transition of the core: the signals in the order
reset, NMI, maskable interrupt, then a halted step, then a fetch step. -/

namespace Sys2Proof.Machine

/-- A fetch step: the opcode byte and its operand bytes are fetched, then the handler of the selected slot runs (R110). -/
def State.fetchStep (s : State) : Host.Outcome State Fault Refusal := exec s.nextInstr (s.afterFetch s.nextInstr)

/-- `step()` (R110, R442): a signal or a halted step if there is one, else a fetch step, with `INT_BLOCKED` cleared first
(decision D3). -/
def step (s : State) : Host.Outcome State Fault Refusal :=
  match s.signalStep with
  | some t => .next t
  | none => State.fetchStep { s with intBlocked := false }

/-- A memory map in which `n` addresses from `a` on are plain memory: the same map if they are so already, else with RAM there. -/
def plainRegions (regions : List Region) (a : Word) (n : Nat) : List Region :=
  if (List.range n).all (fun k => memKindIn regions (a + BitVec.ofNat 16 k) ≠ .device) then regions
  else { base := a, size := n, kind := .ram } :: regions

/-- `s` with the bytes of a table word where the next step fetches, its prefix bytes (if the word has any) taken as consumed, and
with everything that would keep the next step from fetching and dispatching out of the way: the requests, the halted state, a
pending prefix, a device at the addresses fetched. A program is placed in memory from outside the machine in this way
(assumption log 11). -/
def State.withFetchWord (s : State) (nbits w : Nat) : State :=
  { s.placeBytes s.pc (tableWordSlot nbits w).2 with
    regions := plainRegions s.regions s.pc (tableWordSlot nbits w).2.length
    resetReq := false
    nmiReq := false
    intReq := false
    halted := false
    prefixMode := tablePrefixMode (tableWordSlot nbits w).1
    indexMode := tableIndexMode (tableWordSlot nbits w).1 }

end Sys2Proof.Machine
end

