-- ==== Sys2Proof/Machine/HostInterface.lean ====
section
/-! DEFINITION. What the host may do between two steps (00_scope.md R5; 20_memory.md R70, R87; 60_exceptions.md R441, R453):
drive the three request flags at any time, and, only while no instruction is under way, replace what stands behind the memory
and port accesses. -/

namespace Sys2Proof.Machine

/-- One action of the host, between two steps. -/
inductive HostAction where
  /-- Set or clear a request flag (R441, R453). -/
  | driveReset (on : Bool)
  | driveNmi (on : Bool)
  | driveInt (on : Bool)
  /-- Change a byte of plain memory (R87). -/
  | store (a : Word) (v : Byte)
  /-- Replace all contents of plain memory by these bytes, the earlier entry of an address winning. -/
  | replaceMemory (cells : List (Word × Byte))
  /-- Replace what kind of thing stands behind each memory address (R5, R70). -/
  | mapMemory (regions : List Region)
  /-- Swap the accesses: another platform answers from now on (R70, R87). -/
  | swapPlatform (platform : Nat)
  /-- Say what a coming port read is answered with, after the answers already supplied (R73). -/
  | answerPort (v : Byte)
  /-- Replace all answers supplied so far (R5). -/
  | replacePortAnswers (vs : List Byte)
  deriving DecidableEq, Repr

/-- Part of an instruction was consumed and the rest not yet: a prefix is pending (R38, R39). -/
def State.midInstruction (s : State) : Bool := decide (s.prefixMode ≠ .normal) || s.indexMode.isSome

/-- What the host may do between two instructions only: refused while one is under way, "never mid-instruction" (R87, R495;
93 U9). -/
def State.betweenInstructions (s t : State) : Option State := if s.midInstruction then none else some t

/-- The state after an action of the host, none where the host may not act so. -/
def State.host (s : State) : HostAction → Option State
  | .driveReset on => some { s with resetReq := on }
  | .driveNmi on => some { s with nmiReq := on }
  | .driveInt on => some { s with intReq := on }
  | .store a v => s.betweenInstructions (s.placeBytes a [v])
  | .replaceMemory cells =>
    s.betweenInstructions { s with mem := cells.foldr (fun p m => m.write p.1.toNat p.2) ([] : Memory) }
  | .mapMemory regions => s.betweenInstructions { s with regions := regions }
  | .swapPlatform platform => s.betweenInstructions { s with platform := platform }
  | .answerPort v => s.betweenInstructions { s with portAnswers := s.portAnswers ++ [v] }
  | .replacePortAnswers vs => s.betweenInstructions { s with portAnswers := vs }

end Sys2Proof.Machine
end

