-- ==== Sys2Proof/Safety.lean ====
section
/-! DEFINITION. The terms the statements are written in: the invariant of the decode state, what a fetch step needs to run,
a byte string in memory, which bytes of memory a step leaves alone, and what a recorded sequence of accesses means against
plain memory. -/

namespace Sys2Proof.Machine

/-! ### The decode state and the invariant -/

/-- Part of an instruction was consumed: a prefix is pending (R38, R39). -/
def State.prefixPending (s : State) : Prop := s.prefixMode ≠ .normal ∨ s.indexMode ≠ none

/-- What holds in every state the machine reaches:
memory is in its canonical form;
`PREFIX = Bit` implies `INDEX = None` (R118);
while a prefix is pending no maskable interrupt can be accepted, because `INT_BLOCKED` is set or (after an NMI that split
the instruction, R445) `IFF1` is 0;
while `HALTED` no prefix is pending and `PC` holds the address of the `HALT` opcode byte `76` (R25, R277): the last access was its
fetch, and where plain memory stands there, it holds it. -/
structure State.Inv (s : State) : Prop where
  memory : s.mem.wf = true
  bitTable : s.prefixMode = .bit → s.indexMode = none
  unsplit : s.prefixPending → s.intBlocked = true ∨ s.iff1 = false
  halted : s.halted = true → ¬ s.prefixPending ∧ s.bus.head? = some (.memRead s.pc 0x76)
  haltByte : s.halted = true → s.memKind s.pc ≠ .device → s.content s.pc = 0x76

/-! ### Running steps -/

/-- `k` steps, stopping at the first fault or refusal: `Host.Core.run` of the machine. -/
def run : Nat → State → Host.Outcome State Fault Refusal
  | 0, s => .next s
  | k + 1, s =>
    match step s with
    | .next t => run k t
    | .fault x => .fault x
    | .refused x => .refused x

/-- The next step is a fetch step: no signal is serviced and the core is not halted (R110). -/
structure State.Fetches (s : State) : Prop where
  noReset : s.resetReq = false
  noNmi : s.nmiReq = false
  noInt : s.acceptsInt = false
  running : s.halted = false

/-- Reads of memory from `a` on, modulo 65536, are answered with the bytes `bs`, each read at its place in the order (R77, R82). -/
def State.answers : State → Word → List Byte → Bool
  | _, _, [] => true
  | s, a, b :: bs => s.peek a = b && State.answers (s.record (.memRead a b)) (a + 1) bs

/-- The bytes `bs` are what fetches from `PC` on read (R77, R100). -/
def State.atPc (s : State) (bs : List Byte) : Prop := s.answers s.pc bs = true

/-- The record of reading the bytes `bs` from `a` on, the latest read first. -/
def readsOf : Word → List Byte → List BusAccess
  | _, [] => []
  | a, b :: bs => readsOf (a + 1) bs ++ [.memRead a b]

/-- The byte that a read of the address after `a` is answered with when it comes right after a read of `a`: the high byte of a 16-bit
read (R10). -/
def State.peekNext (s : State) (a : Word) : Byte := State.peek { s with bus := .memRead a (s.peek a) :: s.bus } (a + 1)

/-- `R` after `n` refreshes: the low 7 bits count modulo 128, bit 7 is kept (R33, R461). -/
def refreshed (r : Byte) (n : Nat) : Byte := (r &&& 0x80) ||| (BitVec.ofNat 8 (r.toNat + n) &&& 0x7F)

/-! ### Memory -/

/-- Plain memory in `t` is plain memory in `s` with exactly these bytes stored, the latest store first: an address of RAM that the
list names holds its latest store, every other address holds what it held before. -/
def State.stores (s t : State) (bytes : List (Word × Byte)) : Prop :=
  ∀ a, t.content a = match bytes.find? (fun p => p.1 = a && s.memKind a = .ram) with
    | some p => p.2
    | none => s.content a

/-- What a sequence of accesses, the earliest first, does to plain memory whose addresses have these kinds; `none` when a read of
plain memory is not answered by the latest write to that address, or else by the initial content (R82). Reads of anything else
may be answered with any byte. -/
def replay (kind : Word → MemKind) : Memory → List BusAccess → Option Memory
  | m, [] => some m
  | m, .memRead a v :: xs => if kind a = .device ∨ m.read a.toNat = v then replay kind m xs else none
  | m, .memWrite a v :: xs => replay kind (if kind a = .ram then m.write a.toNat v else m) xs
  | m, .portRead _ _ :: xs => replay kind m xs
  | m, .portWrite _ _ :: xs => replay kind m xs

/-- The accesses `xs` are what `t` recorded after `s`, the earliest first. -/
def State.recordedSince (s t : State) (xs : List BusAccess) : Prop := t.bus = xs.reverse ++ s.bus

/-! ### Flags as eight bits (R28) and results as numbers -/

/-- The flag byte with these eight flags (R28). -/
def flagByte (s z f5 h f3 pv n c : Bool) : Byte :=
  flagIf s 0x80 ||| flagIf z 0x40 ||| flagIf f5 0x20 ||| flagIf h 0x10 ||| flagIf f3 0x08 ||| flagIf pv 0x04 |||
    flagIf n 0x02 ||| flagIf c 0x01

/-- The flag byte whose `S`, `Z`, `F5`, `F3` come from the byte `r` (R29), with the other four flags given. -/
def resultFlags (r : Byte) (h pv n c : Bool) : Byte := flagByte (r.getLsbD 7) (r = 0) (r.getLsbD 5) h (r.getLsbD 3) pv n c

/-- "even number of set bits" (R29). -/
def evenParity (v : Byte) : Bool := (List.range 8).countP (fun i => v.getLsbD i) % 2 = 0

/-- A true sum or difference outside the range of the signed result: signed overflow (R29, R230). -/
def outside (x low high : Int) : Bool := decide (x < low) || decide (high < x)

/-- The packed BCD byte of a number below 100 (R270). -/
def bcd (x : Nat) : Byte := BitVec.ofNat 8 (16 * (x / 10) + x % 10)

/-- The eight accumulator operations in the order of their codes (R108), each from the accumulator, the operand and the old
flags to the new accumulator and flags (R235 to R242). -/
def aluFunctions : List (Byte → Byte → Byte → Byte × Byte) :=
  [ fun a v _ => add8 a v false,
    fun a v f => add8 a v (f.getLsbD 0),
    fun a v _ => sub8 a v false,
    fun a v f => sub8 a v (f.getLsbD 0),
    fun a v _ => and8 a v,
    fun a v _ => xor8 a v,
    fun a v _ => or8 a v,
    fun a v _ => (a, ((sub8 a v false).2 &&& 0xD7) ||| (v &&& 0x28)) ]

/-- The eight bit-table operations in the order of their codes (R109). -/
def rotOps : List RotOp := [.rlc, .rrc, .rl, .rr, .sla, .sra, .sll, .srl]

/-- `s` after an instruction whose handler charged `charged` T-states: nothing is pending (R111, R501). -/
def State.done (s : State) (charged : Nat) : State :=
  { s with clk := s.clk + charged, prefixMode := .normal, indexMode := none }

end Sys2Proof.Machine

namespace Sys2Proof

open Machine (condHolds)

/-! ### T-states (70_reset_and_hazards.md R500) -/

/-- The total T-states of a whole instruction by the table of R500, its prefix bytes and opcode fetches included; `cheap` picks
the smaller of two totals: an untaken branch, or the last execution of a repeating block instruction. The rows for a
prefix byte have no total of their own: 4 is the cost of their step (R112, R113). -/
def Instr.tStates (cheap : Bool) : Instr → Nat
  | .ldRR _ _ | .nop | .halt | .di | .ei | .exDeHl | .exAfAf | .exx | .daa | .cpl | .ccf | .scf | .rlca | .rla | .rrca
  | .rra | .addR _ | .adcR _ | .subR _ | .sbcR _ | .andR _ | .xorR _ | .orR _ | .cpR _ | .incR _ | .decR _ | .jpIndHl => 4
  | .ldRN _ _ | .ldRIndHl _ | .ldIndHlR _ | .ldAIndBc | .ldAIndDe | .ldIndBcA | .ldIndDeA | .addN _ | .adcN _ | .subN _
  | .sbcN _ | .andN _ | .xorN _ | .orN _ | .cpN _ | .addIndHl | .adcIndHl | .subIndHl | .sbcIndHl | .andIndHl
  | .xorIndHl | .orIndHl | .cpIndHl => 7
  | .ldIndHlN _ | .ldDdNn _ _ | .popQq _ | .jpNn _ | .jpCcNn _ _ | .ret => 10
  | .incIndHl | .decIndHl | .pushQq _ | .rst _ | .addHlSs _ | .inAIndN _ | .outIndNA _ => 11
  | .ldAIndNn _ | .ldIndNnA _ => 13
  | .ldHlIndNn _ | .ldIndNnHl _ => 16
  | .incSs _ | .decSs _ | .ldSpHl => 6
  | .exIndSpHl => 19
  | .jr _ => 12
  | .jrCc _ _ => if cheap then 7 else 12
  | .djnz _ => if cheap then 8 else 13
  | .callNn _ => 17
  | .callCcNn _ _ => if cheap then 10 else 17
  | .retCc _ => if cheap then 5 else 11
  | .rlcR _ | .rrcR _ | .rlR _ | .rrR _ | .slaR _ | .sraR _ | .sllR _ | .srlR _ | .bitR _ _ | .setR _ _ | .resR _ _ => 8
  | .bitIndHl _ => 12
  | .rlcIndHl | .rrcIndHl | .rlIndHl | .rrIndHl | .slaIndHl | .sraIndHl | .sllIndHl | .srlIndHl | .setIndHl _
  | .resIndHl _ => 15
  | .neg _ | .im0 _ _ | .im1 _ | .im2 _ | .edNop _ => 8
  | .ldAI | .ldAR | .ldIA | .ldRA => 9
  | .inRIndC _ | .inIndC | .outIndCR _ | .outIndC0 => 12
  | .retn _ | .reti => 14
  | .adcHlSs _ | .sbcHlSs _ => 15
  | .rld | .rrd => 18
  | .ldDdIndNn _ _ | .ldIndNnDd _ _ => 20
  | .ldi | .ldd | .cpi | .cpd | .ini | .ind | .outi | .outd => 16
  | .ldir | .lddr | .cpir | .cpdr | .inir | .indr | .otir | .otdr => if cheap then 16 else 21
  | .incXyHalf _ _ | .decXyHalf _ _ | .ldRRXy _ _ _ | .addXyHalf _ _ | .adcXyHalf _ _ | .subXyHalf _ _ | .sbcXyHalf _ _
  | .andXyHalf _ _ | .xorXyHalf _ _ | .orXyHalf _ _ | .cpXyHalf _ _ | .jpIndXy _ => 8
  | .ldXyHalfN _ _ _ => 11
  | .incXy _ | .decXy _ | .ldSpXy _ => 10
  | .ldXyNn _ _ | .popXy _ => 14
  | .addXyPp _ _ | .pushXy _ => 15
  | .ldRIndXy _ _ _ | .ldIndXyR _ _ _ | .ldIndXyN _ _ _ | .addIndXy _ _ | .adcIndXy _ _ | .subIndXy _ _
  | .sbcIndXy _ _ | .andIndXy _ _ | .xorIndXy _ _ | .orIndXy _ _ | .cpIndXy _ _ => 19
  | .ldXyIndNn _ _ | .ldIndNnXy _ _ => 20
  | .incIndXy _ _ | .decIndXy _ _ | .exIndSpXy _ => 23
  | .bitIndXy _ _ _ _ => 20
  | .rlcIndXy _ _ | .rlcIndXyR _ _ _ | .rrcIndXy _ _ | .rrcIndXyR _ _ _ | .rlIndXy _ _ | .rlIndXyR _ _ _ | .rrIndXy _ _
  | .rrIndXyR _ _ _ | .slaIndXy _ _ | .slaIndXyR _ _ _ | .sraIndXy _ _ | .sraIndXyR _ _ _ | .sllIndXy _ _
  | .sllIndXyR _ _ _ | .srlIndXy _ _ | .srlIndXyR _ _ _ | .setIndXy _ _ _ | .setIndXyR _ _ _ _ | .resIndXy _ _ _
  | .resIndXyR _ _ _ _ => 23
  | .xyStandard _ i => i.tStates cheap + 4
  | .indexedBit _ i => i.tStates cheap
  | .prefixCb | .prefixDd | .prefixEd | .prefixFd | .xyPrefixDd _ | .xyPrefixFd _ | .xyPrefixEd _ => 4

/-- The smaller total applies: the branch is not taken, or the block instruction does not repeat; read from the state in
which the handler runs (R382 to R391, R206, R211, R418, R422). -/
def Instr.cheap (s : Machine.State) : Instr → Bool
  | .jrCc cc _ | .callCcNn cc _ | .retCc cc => !condHolds cc s.main.f
  | .djnz _ => s.main.b = 1
  | .ldir | .lddr => s.bc = 1
  | .cpir | .cpdr => s.bc = 1 || s.main.a = s.peek s.hl
  | .inir | .indr | .otir | .otdr => s.main.b = 1
  | .xyStandard _ i => i.cheap s
  | _ => false

/-- The instructions that write `F`, by the complete list of R30. -/
def Instr.writesF : Instr → Bool
  | .addR _ | .addN _ | .addIndHl | .addXyHalf _ _ | .addIndXy _ _ | .adcR _ | .adcN _ | .adcIndHl | .adcXyHalf _ _
  | .adcIndXy _ _ | .subR _ | .subN _ | .subIndHl | .subXyHalf _ _ | .subIndXy _ _ | .sbcR _ | .sbcN _ | .sbcIndHl
  | .sbcXyHalf _ _ | .sbcIndXy _ _ | .neg _ | .cpR _ | .cpN _ | .cpIndHl | .cpXyHalf _ _ | .cpIndXy _ _ | .andR _
  | .andN _ | .andIndHl | .andXyHalf _ _ | .andIndXy _ _ | .orR _ | .orN _ | .orIndHl | .orXyHalf _ _ | .orIndXy _ _
  | .xorR _ | .xorN _ | .xorIndHl | .xorXyHalf _ _ | .xorIndXy _ _ => true
  | .incR _ | .incIndHl | .incXyHalf _ _ | .incIndXy _ _ | .decR _ | .decIndHl | .decXyHalf _ _ | .decIndXy _ _ => true
  | .addHlSs _ | .addXyPp _ _ | .adcHlSs _ | .sbcHlSs _ => true
  | .rlca | .rrca | .rla | .rra | .rlcR _ | .rlcIndHl | .rlcIndXy _ _ | .rlcIndXyR _ _ _ | .rrcR _ | .rrcIndHl
  | .rrcIndXy _ _ | .rrcIndXyR _ _ _ | .rlR _ | .rlIndHl | .rlIndXy _ _ | .rlIndXyR _ _ _ | .rrR _ | .rrIndHl
  | .rrIndXy _ _ | .rrIndXyR _ _ _ | .slaR _ | .slaIndHl | .slaIndXy _ _ | .slaIndXyR _ _ _ | .sraR _ | .sraIndHl
  | .sraIndXy _ _ | .sraIndXyR _ _ _ | .sllR _ | .sllIndHl | .sllIndXy _ _ | .sllIndXyR _ _ _ | .srlR _ | .srlIndHl
  | .srlIndXy _ _ | .srlIndXyR _ _ _ | .rld | .rrd => true
  | .daa | .cpl | .scf | .ccf | .bitR _ _ | .bitIndHl _ | .bitIndXy _ _ _ _ | .ldAI | .ldAR | .inRIndC _ | .inIndC => true
  | .ldi | .ldd | .ldir | .lddr | .cpi | .cpd | .cpir | .cpdr | .ini | .ind | .inir | .indr | .outi | .outd | .otir
  | .otdr => true
  | .popQq qq => qq = .af
  | .exAfAf => true
  | _ => false

end Sys2Proof
end

