-- ==== Sys2Proof/Certificates/Slice0/Obligations.lean ====
section
/-! DEFINITION. The statements about the machine, from the numbered rules of the spec. An instruction's statement gives the
whole state after it: every field it does not name is unchanged. -/

open Sys2Proof Sys2Proof.Machine

/-! ### Signals and steps (60_exceptions.md, 30_encoding.md R110) -/

/-- R444, R46: the reset service, whatever else the state holds; every element it does not name is left unchanged. Reset applied twice
is reset applied once, and the step after it fetches at 0x0000 unless an NMI is requested. That `I` and `clk` become 0, that the
request is cleared and what is left unchanged are the spec's own decisions D6, D7, D1 and D24. `State.reset`, whose other registers
are the model's choice (assumption log 1), is such a state. -/
def Obligations.ResetService : Prop :=
  (∀ s : State, s.resetReq = true →
    step s = .next { s with
      halted := false, iff1 := false, iff2 := false, im := .mode0, intBlocked := false, prefixMode := .normal,
      indexMode := none, pc := 0x0000, r := 0x00, i := 0x00, clk := 0, resetReq := false }) ∧
  (∀ s t : State, s.resetReq = true → step s = .next t →
    step { t with resetReq := true } = .next t ∧
    (t.nmiReq = false → t.pc = 0x0000 ∧ step t = exec t.nextInstr (t.afterFetch t.nextInstr))) ∧
  step { State.reset with resetReq := true } = .next State.reset

/-- R445: the NMI service. The return address pushed is the address after the `HALT` byte when the core is halted; `IFF2`, `IM`,
`WZ`, `R`, `PREFIX` and `INDEX` are kept. The vector, the 11 T-states, what is kept and that the request is cleared are decisions D9,
D10, D12, D4 and D1 of the spec. -/
def Obligations.NmiService : Prop :=
  ∀ s : State, s.resetReq = false → s.nmiReq = true →
    let ret := if s.halted then s.pc + 1 else s.pc
    ∃ t, step s = .next t ∧
      s.stores t [(s.sp - 2, lo ret), (s.sp - 1, hi ret)] ∧
      t = { s with
        intBlocked := false, halted := false, iff1 := false, sp := s.sp - 2, pc := 0x0066, clk := s.clk + 11,
        nmiReq := false, mem := t.mem, bus := .memWrite (s.sp - 2) (lo ret) :: .memWrite (s.sp - 1) (hi ret) :: s.bus }

/-- R447, R448, R452: a maskable interrupt in mode 0 or 1. `INT_REQ` is kept. The 13 T-states, mode 0 acting as
mode 1, `WZ` and the kept request are decisions D10, D11, D12 and D1 of the spec. -/
def Obligations.InterruptMode01 : Prop :=
  ∀ s : State, s.resetReq = false → s.nmiReq = false → s.intReq = true → s.iff1 = true → s.intBlocked = false →
    s.im ≠ .mode2 →
    let ret := if s.halted then s.pc + 1 else s.pc
    ∃ t, step s = .next t ∧
      s.stores t [(s.sp - 2, lo ret), (s.sp - 1, hi ret)] ∧
      t = { s with
        halted := false, iff1 := false, iff2 := false, sp := s.sp - 2, pc := 0x0038, wz := 0x0038, clk := s.clk + 13,
        mem := t.mem, bus := .memWrite (s.sp - 2) (lo ret) :: .memWrite (s.sp - 1) (hi ret) :: s.bus }

/-- R447, R449: a maskable interrupt in mode 2. The pointer at `I:0x00` is read after the two bytes are pushed, low byte first.
The 19 T-states, `WZ` and the kept request are decisions D10, D12 and D1 of the spec. -/
def Obligations.InterruptMode2 : Prop :=
  ∀ s : State, s.resetReq = false → s.nmiReq = false → s.intReq = true → s.iff1 = true → s.intBlocked = false →
    s.im = .mode2 →
    let ret := if s.halted then s.pc + 1 else s.pc
    let a := join s.i 0x00
    ∃ t, step s = .next t ∧
      s.stores t [(s.sp - 2, lo ret), (s.sp - 1, hi ret)] ∧
      let pushed := { s with
        mem := t.mem, bus := .memWrite (s.sp - 2) (lo ret) :: .memWrite (s.sp - 1) (hi ret) :: s.bus }
      let l := pushed.peek a
      let h := pushed.peekNext a
      t = { s with
        halted := false, iff1 := false, iff2 := false, sp := s.sp - 2, pc := join h l, wz := join h l, clk := s.clk + 19,
        mem := t.mem, bus := .memRead (a + 1) h :: .memRead a l :: pushed.bus }

/-- R443: the fixed priority of the signals. When several are requested, the step services the one of highest priority and the
others stay pending. -/
def Obligations.SignalPriority : Prop :=
  (∀ s : State, s.resetReq = true →
    ∃ t, step s = .next t ∧ t.pc = 0x0000 ∧ t.sp = s.sp ∧ t.mem = s.mem ∧ t.nmiReq = s.nmiReq ∧ t.intReq = s.intReq) ∧
  (∀ s : State, s.resetReq = false → s.nmiReq = true →
    ∃ t, step s = .next t ∧ t.pc = Config.nmiVector ∧ t.sp = s.sp - 2 ∧ t.iff1 = false ∧ t.iff2 = s.iff2 ∧
      t.intReq = s.intReq) ∧
  (∀ s : State, s.resetReq = false → s.nmiReq = false → s.acceptsInt = true →
    ∃ t, step s = .next t ∧ t.sp = s.sp - 2 ∧ t.iff1 = false ∧ t.iff2 = false ∧
      (s.im ≠ .mode2 → t.pc = Config.intVector01) ∧
      (s.im = .mode2 → ∃ l h, t.pc = join h l ∧ t.bus.take 2 =
        [.memRead (join s.i Config.intVectorLow + 1) h, .memRead (join s.i Config.intVectorLow) l]))

/-- R457: with reset, NMI and the maskable interrupt all requested, reset is serviced first, the NMI at the next step, and the
maskable request then waits; with NMI and the maskable interrupt requested, the NMI comes first and the other waits.
That a serviced request is cleared is decision D1 of the spec, the vector decision D9. -/
def Obligations.SimultaneousRequests : Prop :=
  (∀ s : State, s.resetReq = true → s.nmiReq = true → s.intReq = true → s.iff1 = true →
    ∃ t u, step s = .next t ∧ t.pc = 0x0000 ∧ t.resetReq = false ∧ t.nmiReq = true ∧ t.intReq = true ∧ t.iff1 = false ∧
      step t = .next u ∧ u.pc = 0x0066 ∧ u.nmiReq = false ∧ u.sp = s.sp - 2 ∧
      t.stores u [(s.sp - 2, 0x00), (s.sp - 1, 0x00)] ∧
      u.bus = .memWrite (s.sp - 2) 0x00 :: .memWrite (s.sp - 1) 0x00 :: s.bus ∧
      u.intReq = true ∧ u.acceptsInt = false) ∧
  (∀ s : State, s.resetReq = false → s.nmiReq = true → s.intReq = true → s.iff1 = true →
    ∃ t, step s = .next t ∧ t.pc = 0x0066 ∧ t.intReq = true ∧ t.acceptsInt = false ∧ t.iff2 = s.iff2)

/-- R499, R277: a halted core with interrupts disabled and no NMI or reset request stays halted for any number of steps; each step
adds 4 T-states and one refresh and performs no access. The spec marks R499 as derived and the 4 T-states as decision D18. -/
def Obligations.HaltWithInterruptsDisabled : Prop :=
  ∀ (n : Nat) (s : State), s.halted = true → s.iff1 = false → s.resetReq = false → s.nmiReq = false →
    run n s = .next { s with
      clk := s.clk + 4 * n, r := refreshed s.r n, intBlocked := if n = 0 then s.intBlocked else false }

/-- R16, R440, R123: no step faults, refuses or is stuck, whatever stands behind the accesses. -/
def Obligations.NoStepStops : Prop := ∀ s : State, ∃ t, step s = .next t

/-- A fetch step runs the instruction that the bytes read from `PC` on decode to in the table that the pending prefix selects, whatever
the platform has there. Around it the step clears `INT_BLOCKED`, moves `PC` past the instruction's bytes, refreshes `R` once, charges 4 T-states and records the
reads of the bytes (R11, R110). When `INT_BLOCKED` is cleared is decision D3 of the spec; that the operand bytes are read before
the handler runs is assumption log 8. -/
def Obligations.StepRunsTheDecodedInstruction : Prop :=
  ∀ (s : State) (i : Instr) (bs rest : List Byte), s.Fetches → s.atPc bs → decode s.table bs = .instr i rest →
    step s = exec i { s with
      intBlocked := false
      pc := s.pc + BitVec.ofNat 16 (bs.length - rest.length)
      r := refreshed s.r 1
      clk := s.clk + 4
      bus := readsOf s.pc (bs.take (bs.length - rest.length)) ++ s.bus }

/-- R110 to R115, R126: running the step machine over the bytes of a whole encoded instruction, prefix bytes included, executes exactly
that instruction. A maskable request cannot get in between, whatever `INT_REQ` is. -/
def Obligations.StepsRunAWholeInstruction : Prop :=
  ∀ (i : Instr) (s : State), i.wf = true → i.isPrefix = false → (∀ xy, i.table ≠ .indexedBit xy) →
    ¬ s.prefixPending → s.Fetches → s.atPc (encode i) →
    run (i.table.prefixBytes.length + 1) s = exec i { s with
      intBlocked := false
      prefixMode := tablePrefixMode i.table
      indexMode := tableIndexMode i.table
      pc := s.pc + BitVec.ofNat 16 (encode i).length
      r := refreshed s.r (i.table.prefixBytes.length + 1)
      clk := s.clk + 4 * (i.table.prefixBytes.length + 1)
      bus := readsOf s.pc (encode i) ++ s.bus }

/-- R500, R501: the T-states of every instruction, from its first prefix byte to its completion, by the table of R500 (decision D17 of
the spec); the smaller total of two is decided by the state in which the handler runs, its bytes read. -/
def Obligations.WholeInstructionTakesItsTStates : Prop :=
  ∀ (i : Instr) (s : State), i.wf = true → i.isPrefix = false → (∀ xy, i.table ≠ .indexedBit xy) →
    ¬ s.prefixPending → s.Fetches → s.atPc (encode i) →
    ∃ t, run (i.table.prefixBytes.length + 1) s = .next t ∧
      t.clk = s.clk + i.tStates (i.cheap { s with bus := readsOf s.pc (encode i) ++ s.bus })

/-- R111: every instruction completes, whatever the state, and nothing is pending after it. -/
def Obligations.EveryInstructionCompletes : Prop :=
  ∀ (i : Instr) (s : State), i.wf = true → i.isPrefix = false →
    ∃ t, exec i s = .next t ∧ t.prefixMode = .normal ∧ t.indexMode = none

/-- R112: a run of index prefix bytes. The last one wins, and each costs 4 T-states and one refresh. That no maskable interrupt is
accepted in it, whatever `INT_REQ` and `IFF1` are at its start, is not R112's: it is R117 and R492, which the spec marks as derived,
R451 and decision D3; and `run` is a run in which the host does nothing between the steps (assumption log 15). -/
def Obligations.IndexPrefixChain : Prop :=
  ∀ (bs : List IndexReg) (xy : IndexReg) (s : State), s.prefixMode = .normal → s.Fetches →
    s.atPc ((bs ++ [xy]).map IndexReg.prefixByte) →
    run (bs.length + 1) s = .next { s with
      indexMode := some xy
      intBlocked := true
      pc := s.pc + BitVec.ofNat 16 (bs.length + 1)
      r := refreshed s.r (bs.length + 1)
      clk := s.clk + 4 * (bs.length + 1)
      bus := readsOf s.pc ((bs ++ [xy]).map IndexReg.prefixByte) ++ s.bus }

/-! ### Invariants and whole-machine rules -/

/-- The invariant holds right after reset. -/
def Obligations.InvariantAtReset : Prop := State.reset.Inv

/-- Every step from a state that meets the invariant gives a state that meets it, and so does every action of the host, but that the
host may put another byte where a halted core's `HALT` byte stands (R87). -/
def Obligations.InvariantKeptByEveryStep : Prop :=
  (∀ s t : State, s.Inv → step s = .next t → t.Inv) ∧
  (∀ (s t : State) (x : HostAction), s.Inv → s.host x = some t →
    (t.halted = true → t.memKind t.pc ≠ .device → t.content t.pc = 0x76) → t.Inv)

/-- R493: a maskable interrupt is accepted only between two instructions, and never splits one: in a state that meets the invariant
acceptance needs no pending prefix and `blocked = false`, and after a step that leaves a prefix pending no maskable request is
accepted, whatever level the host gives `INT_REQ`. -/
def Obligations.MaskableInterruptSplitsNothing : Prop :=
  (∀ s : State, s.Inv → s.acceptsInt = true → s.prefixMode = .normal ∧ s.indexMode = none ∧ s.intBlocked = false) ∧
  (∀ (s t : State) (level : Bool), s.Inv → step s = .next t → t.prefixPending →
    State.acceptsInt { t with intReq := level } = false)

/-- R118, which the spec marks as derived: the decode state after a step. -/
def Obligations.DecodeStateAfterAStep : Prop :=
  (∀ s t : State, s.Inv → step s = .next t →
    (t.prefixMode = .bit → t.indexMode = none) ∧
    (t.intBlocked = true ↔ s.Fetches ∧ (s.nextInstr.isPrefix = true ∨ s.nextInstr.handler = .ei)) ∧
    (s.Fetches → s.nextInstr.isPrefix = false → t.prefixMode = .normal ∧ t.indexMode = none)) ∧
  (∀ s : State, s.prefixMode = .bit → s.table = .bit)

/-- R22, R45: only `EX AF,AF'` and `EXX` write the shadow set. -/
def Obligations.ShadowWrittenByExchangesOnly : Prop :=
  ∀ s t : State, step s = .next t →
    ¬ (s.Fetches ∧ (s.nextInstr.handler = .exAfAf ∨ s.nextInstr.handler = .exx)) → t.shadow = s.shadow

/-- R30: only the instructions of the list write `F`; no signal and no halted step does. -/
def Obligations.FlagsWrittenByTheListOnly : Prop :=
  ∀ s t : State, step s = .next t → ¬ (s.Fetches ∧ s.nextInstr.handler.writesF = true) → t.main.f = s.main.f

/-- R32, R33, R34, R35, R36: who writes `I`, `R`, `IFF1`, `IFF2`, `IM` and `HALTED`, for every step that services no reset. `IFF1` is kept
by every step that services no signal and dispatches none of `EI`, `DI`, `RETI`, `RETN`, and set by `EI`, `RETI` and `RETN` only. -/
def Obligations.ControlRegisterWriters : Prop :=
  ∀ s t : State, step s = .next t → s.resetReq = false →
    (¬ (s.Fetches ∧ s.nextInstr.handler = .ldIA) → t.i = s.i) ∧
    (¬ (s.Fetches ∧ s.nextInstr.handler = .ldRA) →
      t.r = if s.nmiReq || s.acceptsInt then s.r else refreshed s.r 1) ∧
    (¬ (s.Fetches ∧ ∃ u v, s.nextInstr = .im0 u v ∨ s.nextInstr = .im1 u ∨ s.nextInstr = .im2 u) → t.im = s.im) ∧
    (¬ (s.Fetches ∧ (s.nextInstr.handler = .ei ∨ s.nextInstr.handler = .di)) → s.acceptsInt = false →
      t.iff2 = s.iff2) ∧
    (¬ (s.Fetches ∧ (s.nextInstr.handler = .ei ∨ s.nextInstr.handler = .di ∨ s.nextInstr = .reti ∨
      ∃ y, s.nextInstr = .retn y)) → s.nmiReq = false → s.acceptsInt = false → t.iff1 = s.iff1) ∧
    (t.iff1 = true → s.iff1 = true ∨ s.Fetches ∧
      (s.nextInstr.handler = .ei ∨ s.nextInstr = .reti ∨ ∃ y, s.nextInstr = .retn y)) ∧
    (t.halted = true ↔ s.nmiReq = false ∧ s.acceptsInt = false ∧
      (s.halted = true ∨ s.nextInstr.handler = .halt))

/-- R40, R453, R460: the core clears `RESET_REQ` and `NMI_REQ` exactly when it services them and never writes `INT_REQ`; every step
but the reset step advances the clock by 4 T-states or more. R5, R87, R441, R495: the host, between two steps, sets and clears the
three flags at any time; what stands behind the accesses it changes only while no prefix is pending, then in every way it
may; and it changes nothing else. -/
def Obligations.RequestsAndClock : Prop :=
  (∀ s t : State, step s = .next t →
    t.resetReq = false ∧ t.nmiReq = (s.nmiReq && s.resetReq) ∧ t.intReq = s.intReq ∧
    (s.resetReq = false → s.clk + 4 ≤ t.clk) ∧ (s.resetReq = true → t.clk = 0)) ∧
  (∀ (s t : State) (x : HostAction), s.host x = some t →
    t = { s with
      resetReq := t.resetReq, nmiReq := t.nmiReq, intReq := t.intReq, mem := t.mem, regions := t.regions,
      platform := t.platform, portAnswers := t.portAnswers } ∧
    (s.prefixPending → t = { s with resetReq := t.resetReq, nmiReq := t.nmiReq, intReq := t.intReq })) ∧
  (∀ (s : State) (on : Bool),
    s.host (.driveReset on) = some { s with resetReq := on } ∧ s.host (.driveNmi on) = some { s with nmiReq := on } ∧
    s.host (.driveInt on) = some { s with intReq := on }) ∧
  (∀ (s : State) (a : Word) (v : Byte) (cells : List (Word × Byte)) (regions : List Region) (platform : Nat)
      (vs : List Byte),
    (s.prefixPending → ∀ x ∈ [HostAction.store a v, .replaceMemory cells, .mapMemory regions, .swapPlatform platform,
      .answerPort v, .replacePortAnswers vs], s.host x = none) ∧
    (¬ s.prefixPending →
      (∃ t, s.host (.store a v) = some t ∧ t = { s with mem := t.mem } ∧
        ∀ b, t.content b = if b = a then v else s.content b) ∧
      (∃ t, s.host (.replaceMemory cells) = some t ∧ t = { s with mem := t.mem } ∧
        ∀ b, t.content b = match cells.find? (fun p => p.1 = b) with
          | some p => p.2
          | none => Memory.unlisted) ∧
      s.host (.mapMemory regions) = some { s with regions := regions } ∧
      s.host (.swapPlatform platform) = some { s with platform := platform } ∧
      s.host (.answerPort v) = some { s with portAnswers := s.portAnswers ++ [v] } ∧
      s.host (.replacePortAnswers vs) = some { s with portAnswers := vs }))

/-- R70, R82, R85: the accesses a step records, in their order, are all that changes plain memory; those that read plain memory are
answered by the latest write to the address or else the content before the step, and only RAM takes a write. A read of anything
else is answered with a free value that may depend on the platform, on all accesses before it and on the address
(assumption log 4). No step changes what stands behind the accesses. -/
def Obligations.AccessesExplainMemory : Prop :=
  (∀ s t : State, step s = .next t →
    t.regions = s.regions ∧ t.platform = s.platform ∧
    ∃ xs, s.recordedSince t xs ∧ replay s.memKind s.mem xs = some t.mem) ∧
  (∀ (s : State) (a b : Word) (v : Byte),
    (s.memKind a ≠ .device → s.memRead a = (s.content a, s.record (.memRead a (s.content a)))) ∧
    (s.memKind a = .device → s.memRead a = (Config.freeMemByte s.platform s.bus a,
      s.record (.memRead a (Config.freeMemByte s.platform s.bus a)))) ∧
    s.memWrite a v = { s with mem := (s.memWrite a v).mem, bus := .memWrite a v :: s.bus } ∧
    (s.memWrite a v).content b = if b = a ∧ s.memKind a = .ram then v else s.content b)

/-! ### Encoding (30_encoding.md) -/

/-- Decoding the encoding of any well-formed instruction gives it back, with every operand at every value, whatever bytes
follow. -/
def Obligations.DecodeOfEncode : Prop :=
  ∀ (i : Instr) (rest : List Byte), i.wf = true → decode i.table (encodeSlot i ++ rest) = .instr i rest

/-- R100, R123: every byte value is a slot of every table, the instruction it gives is well formed and of that table, and encoding it
gives the bytes back, so no byte string is read as another one's instruction. -/
def Obligations.EncodeOfDecode : Prop :=
  ∀ (t : Table) (op a b : Byte),
    (decodeSlot t op a b).wf = true ∧ (decodeSlot t op a b).table = t ∧
    encodeSlot (decodeSlot t op a b) = [op, a, b].take ((decodeSlot t op a b).operandBytes + 1)

/-- R126, R117: decoding a whole byte string. The bytes of a whole instruction decode to it, and index prefix bytes before an
instruction of the indexed or the extended table change nothing. -/
def Obligations.DecodeOfAWholeByteString : Prop :=
  ∀ (i : Instr) (bs : List IndexReg) (rest : List Byte), i.wf = true → i.isPrefix = false →
    (∀ xy, i.table ≠ .indexedBit xy) → (bs = [] ∨ i.table = .extended ∨ ∃ xy, i.table = .indexed xy) →
    decodeString none (bs.map IndexReg.prefixByte ++ encode i ++ rest) = .instr i rest

/-- R129, R103: the worked encodings the source gives, one word of each other format, and that the length of an instruction never
depends on its operand bytes. -/
def Obligations.WorkedEncodings : Prop :=
  decodeString none [0xDD, 0x21, 0x01, 0x11] = .instr (.ldXyNn .ix 0x1101) [] ∧
  decodeString none [0x01, 0x34, 0x12] = .instr (.ldDdNn .bc 0x1234) [] ∧
  decodeString none [0xDD, 0x09] = .instr (.addXyPp .ix .bc) [] ∧
  decodeString none [0xDD, 0x24] = .instr (.incXyHalf .ix .high) [] ∧
  decodeString none [0xDD, 0x46, 0x54] = .instr (.ldRIndXy .ix .b 0x54) [] ∧
  decodeString none [0xDD, 0xE9] = .instr (.jpIndXy .ix) [] ∧
  decodeString none [0xCB, 0x78] = .instr (.bitR 7 .b) [] ∧
  decodeString none [0xED, 0xB0] = .instr .ldir [] ∧
  decodeString none [0xFD, 0xCB, 0xFF, 0xC6] = .instr (.indexedBit .iy (.setIndXy .iy 0 0xFF)) [] ∧
  (∀ (t : Table) (op a b a' b' : Byte), (decodeSlot t op a b).operandBytes = (decodeSlot t op a' b').operandBytes)

/-! ### Arithmetic and flag functions -/

/-- R230: `add8`, result, signed overflow and every flag. -/
def Obligations.Add8 : Prop :=
  ∀ (a b : Byte) (c : Bool),
    let sum := a.toNat + b.toNat + c.toNat
    let r := BitVec.ofNat 8 sum
    add8 a b c = (r, resultFlags r (decide (15 < a.toNat % 16 + b.toNat % 16 + c.toNat))
      (outside (a.toInt + b.toInt + c.toNat) (-128) 127) false (decide (255 < sum)))

/-- R231: `sub8`, result, signed overflow and every flag. -/
def Obligations.Sub8 : Prop :=
  ∀ (a b : Byte) (c : Bool),
    let r := BitVec.ofInt 8 ((a.toNat : Int) - b.toNat - c.toNat)
    sub8 a b c = (r, resultFlags r (decide (a.toNat % 16 < b.toNat % 16 + c.toNat))
      (outside (a.toInt - b.toInt - c.toNat) (-128) 127) true (decide (a.toNat < b.toNat + c.toNat)))

/-- R232, R233: the logic functions with parity, and that increment and decrement are `add8` and `sub8` of 1 with the old `C` kept. -/
def Obligations.LogicAndIncrement : Prop :=
  (∀ a b : Byte,
    and8 a b = (a &&& b, resultFlags (a &&& b) true (evenParity (a &&& b)) false false) ∧
    or8 a b = (a ||| b, resultFlags (a ||| b) false (evenParity (a ||| b)) false false) ∧
    xor8 a b = (a ^^^ b, resultFlags (a ^^^ b) false (evenParity (a ^^^ b)) false false)) ∧
  (∀ v f : Byte,
    inc8 v f = (v + 1, resultFlags (v + 1) (v.toNat % 16 = 15) (v = 0x7F) false (f.getLsbD 0)) ∧
    dec8 v f = (v - 1, resultFlags (v - 1) (v.toNat % 16 = 0) (v = 0x80) true (f.getLsbD 0)) ∧
    inc8 v f = ((add8 v 1 false).1, ((add8 v 1 false).2 &&& 0xFE) ||| (f &&& 0x01)) ∧
    dec8 v f = ((sub8 v 1 false).1, ((sub8 v 1 false).2 &&& 0xFE) ||| (f &&& 0x01)))

/-- R270: `DAA` after adding or subtracting two packed BCD bytes, with or without carry in, gives the packed BCD result, and `C` is
the decimal carry or borrow. -/
def Obligations.DecimalAdjust : Prop :=
  ∀ (x y : Nat) (c : Bool), x < 100 → y < 100 →
    (let raw := add8 (bcd x) (bcd y) c
     (daa8 raw.1 raw.2).1 = bcd ((x + y + c.toNat) % 100) ∧
       flagC (daa8 raw.1 raw.2).2 = decide (100 ≤ x + y + c.toNat)) ∧
    (let raw := sub8 (bcd x) (bcd y) c
     (daa8 raw.1 raw.2).1 = bcd ((100 + x - y - c.toNat) % 100) ∧
       flagC (daa8 raw.1 raw.2).2 = decide (x < y + c.toNat))

/-- R324: the eight bit-table operations as rotations and as arithmetic, their carries, and their flag byte. -/
def Obligations.RotateAndShift : Prop :=
  ∀ (v f : Byte) (c : Bool),
    rot8 .rlc v c = (v.rotateLeft 1, v.getLsbD 7) ∧
    rot8 .rrc v c = (v.rotateRight 1, v.getLsbD 0) ∧
    rot8 .rl v c = (BitVec.ofNat 8 (2 * v.toNat + c.toNat), v.getLsbD 7) ∧
    rot8 .rr v c = (BitVec.ofNat 8 (v.toNat / 2 + 128 * c.toNat), v.getLsbD 0) ∧
    rot8 .sla v c = (BitVec.ofNat 8 (2 * v.toNat), v.getLsbD 7) ∧
    rot8 .sra v c = (BitVec.ofInt 8 (v.toInt / 2), v.getLsbD 0) ∧
    rot8 .sll v c = (BitVec.ofNat 8 (2 * v.toNat + 1), v.getLsbD 7) ∧
    rot8 .srl v c = (BitVec.ofNat 8 (v.toNat / 2), v.getLsbD 0) ∧
    ∀ op, rotFlags op v f =
      let rc := rot8 op v (f.getLsbD 0)
      (rc.1, resultFlags rc.1 false (evenParity rc.1) false rc.2)

/-! ### The register file -/

/-- R20, R21, R23, R104 to R106, R114: every register, half and pair under every name an operand gives it: what reading it gives,
and the whole state after writing it. Halves and pairs are one storage, and the high byte is the first half. -/
def Obligations.HalvesAndPairs : Prop :=
  ∀ (s : State) (r r' : Reg8) (u v : Byte) (w : Word) (xy : IndexReg),
    (hi w = BitVec.ofNat 8 (w.toNat / 256) ∧ lo w = BitVec.ofNat 8 (w.toNat % 256) ∧
      (join u v).toNat = 256 * u.toNat + v.toNat ∧ join (hi w) (lo w) = w) ∧
    [Reg8.b, .c, .d, .e, .h, .l, .a].map s.reg =
      [s.main.b, s.main.c, s.main.d, s.main.e, s.main.h, s.main.l, s.main.a] ∧
    [Reg8.b, .c, .d, .e, .h, .l, .a].map (s.setReg · v) =
      [{ s.main with b := v }, { s.main with c := v }, { s.main with d := v }, { s.main with e := v },
        { s.main with h := v }, { s.main with l := v }, { s.main with a := v }].map (fun m => { s with main := m }) ∧
    (s.setReg r v).reg r' = (if r' = r then v else s.reg r') ∧
    s.setF v = { s with main := { s.main with f := v } } ∧
    s.setAF (u, v) = { s with main := { s.main with a := u, f := v } } ∧
    [s.bc, s.de, s.hl, s.af] =
      [join s.main.b s.main.c, join s.main.d s.main.e, join s.main.h s.main.l, join s.main.a s.main.f] ∧
    [s.setBc w, s.setDe w, s.setHl w] =
      [{ s.main with b := hi w, c := lo w }, { s.main with d := hi w, e := lo w },
        { s.main with h := hi w, l := lo w }].map (fun m => { s with main := m }) ∧
    [Pair.bc, .de, .hl, .sp].map s.pair = [s.bc, s.de, s.hl, s.sp] ∧
    [Pair.bc, .de, .hl, .sp].map (s.setPair · w) = [s.setBc w, s.setDe w, s.setHl w, { s with sp := w }] ∧
    [StackPair.bc, .de, .hl, .af].map s.stackPair = [s.bc, s.de, s.hl, s.af] ∧
    [StackPair.bc, .de, .hl, .af].map (s.setStackPair · w) =
      [s.setBc w, s.setDe w, s.setHl w, { s with main := { s.main with a := hi w, f := lo w } }] ∧
    [IndexReg.ix, .iy].map s.xy = [s.ix, s.iy] ∧
    [IndexReg.ix, .iy].map (s.setXy · w) = [{ s with ix := w }, { s with iy := w }] ∧
    [IndexedPair.bc, .de, .xy, .sp].map (s.indexedPair .ix) = [s.bc, s.de, s.ix, s.sp] ∧
    [IndexedPair.bc, .de, .xy, .sp].map (s.indexedPair .iy) = [s.bc, s.de, s.iy, s.sp] ∧
    [s.half .ix .high, s.half .ix .low, s.half .iy .high, s.half .iy .low] = [hi s.ix, lo s.ix, hi s.iy, lo s.iy] ∧
    [s.setHalf .ix .high v, s.setHalf .ix .low v, s.setHalf .iy .high v, s.setHalf .iy .low v] =
      [{ s with ix := join v (lo s.ix) }, { s with ix := join (hi s.ix) v },
        { s with iy := join v (lo s.iy) }, { s with iy := join (hi s.iy) v }] ∧
    [Reg8.b, .c, .d, .e, .h, .l, .a].map (s.indexedReg xy) =
      [s.main.b, s.main.c, s.main.d, s.main.e, s.half xy .high, s.half xy .low, s.main.a] ∧
    [Reg8.b, .c, .d, .e, .h, .l, .a].map (s.setIndexedReg xy · v) =
      [s.setReg .b v, s.setReg .c v, s.setReg .d v, s.setReg .e v, s.setHalf xy .high v, s.setHalf xy .low v,
        s.setReg .a v]

/-- R8, R116, R383: the indexed address and the target of a relative jump are sums with the two's-complement reading of the
displacement, modulo 65536. -/
def Obligations.DisplacedAddresses : Prop :=
  ∀ (s : State) (xy : IndexReg) (d : Byte),
    s.ea xy d = BitVec.ofInt 16 ((s.xy xy).toNat + d.toInt) ∧ s.relative d = BitVec.ofInt 16 (s.pc.toNat + d.toInt)

/-! ### Loads (40_load8.md, 41_load16_stack.md) -/

/-- R140, R141, R154 to R157, R170, R171, R178, R179: loads between registers and of immediates. -/
def Obligations.LoadRegister : Prop :=
  ∀ (s : State) (r y z : Reg8) (n : Byte) (xy : IndexReg) (h : Half) (dd : Pair) (nn : Word),
    exec (.ldRR y z) s = .next ((s.setReg y (s.reg z)).done 0) ∧
    exec (.ldRN r n) s = .next ((s.setReg r n).done 3) ∧
    exec (.ldRRXy xy y z) s = .next ((s.setIndexedReg xy y (s.indexedReg xy z)).done 0) ∧
    exec (.ldXyHalfN xy h n) s = .next ((s.setHalf xy h n).done 3) ∧
    exec .ldIA s = .next (State.done { s with i := s.main.a } 1) ∧
    exec .ldRA s = .next (State.done { s with r := s.main.a } 1) ∧
    exec .ldAI s = .next (State.done { s with
      main := { s.main with a := s.i, f := resultFlags s.i false s.iff2 false (s.main.f.getLsbD 0) } } 1) ∧
    exec .ldAR s = .next (State.done { s with
      main := { s.main with a := s.r, f := resultFlags s.r false s.iff2 false (s.main.f.getLsbD 0) } } 1) ∧
    exec (.ldDdNn .bc nn) s = .next (State.done { s with main := { s.main with b := hi nn, c := lo nn } } 6) ∧
    exec (.ldDdNn .de nn) s = .next (State.done { s with main := { s.main with d := hi nn, e := lo nn } } 6) ∧
    exec (.ldDdNn .hl nn) s = .next (State.done { s with main := { s.main with h := hi nn, l := lo nn } } 6) ∧
    exec (.ldDdNn .sp nn) s = .next (State.done { s with sp := nn } 6) ∧
    exec (.ldXyNn xy nn) s = .next ((s.setXy xy nn).done 6) ∧
    exec .ldSpHl s = .next (State.done { s with sp := join s.main.h s.main.l } 2) ∧
    exec (.ldSpXy xy) s = .next (State.done { s with sp := s.xy xy } 2) ∧
    exec (.ldDdNn dd nn) s = .next ((s.setPair dd nn).done 6)

/-- R142, R143, R148 to R150: loads of a byte of memory; each reads one byte and stores nothing. -/
def Obligations.LoadByteFromMemory : Prop :=
  ∀ (s : State) (r : Reg8) (xy : IndexReg) (d : Byte) (nn : Word),
    exec (.ldRIndHl r) s = .next (((s.record (.memRead s.hl (s.peek s.hl))).setReg r (s.peek s.hl)).done 3) ∧
    exec (.ldRIndXy xy r d) s = .next (State.done { (s.record (.memRead (s.ea xy d) (s.peek (s.ea xy d)))).setReg r
      (s.peek (s.ea xy d)) with wz := s.ea xy d } 11) ∧
    exec .ldAIndBc s = .next (State.done { s with
      main := { s.main with a := s.peek s.bc }, wz := s.bc + 1, bus := .memRead s.bc (s.peek s.bc) :: s.bus } 3) ∧
    exec .ldAIndDe s = .next (State.done { s with
      main := { s.main with a := s.peek s.de }, wz := s.de + 1, bus := .memRead s.de (s.peek s.de) :: s.bus } 3) ∧
    exec (.ldAIndNn nn) s = .next (State.done { s with
      main := { s.main with a := s.peek nn }, wz := nn + 1, bus := .memRead nn (s.peek nn) :: s.bus } 9)

/-- R144 to R147, R151 to R153: stores of a byte. No register but `WZ` changes, and exactly one byte of plain memory may. -/
def Obligations.StoreByte : Prop :=
  ∀ (s : State) (r : Reg8) (xy : IndexReg) (d n : Byte) (nn : Word),
    (∃ t, exec (.ldIndHlR r) s = .next t ∧ s.stores t [(s.hl, s.reg r)] ∧
      t = State.done { s with mem := t.mem, bus := .memWrite s.hl (s.reg r) :: s.bus } 3) ∧
    (∃ t, exec (.ldIndXyR xy d r) s = .next t ∧ s.stores t [(s.ea xy d, s.reg r)] ∧
      t = State.done { s with mem := t.mem, wz := s.ea xy d, bus := .memWrite (s.ea xy d) (s.reg r) :: s.bus } 11) ∧
    (∃ t, exec (.ldIndHlN n) s = .next t ∧ s.stores t [(s.hl, n)] ∧
      t = State.done { s with mem := t.mem, bus := .memWrite s.hl n :: s.bus } 6) ∧
    (∃ t, exec (.ldIndXyN xy d n) s = .next t ∧ s.stores t [(s.ea xy d, n)] ∧
      t = State.done { s with mem := t.mem, wz := s.ea xy d, bus := .memWrite (s.ea xy d) n :: s.bus } 11) ∧
    (∃ t, exec .ldIndBcA s = .next t ∧ s.stores t [(s.bc, s.main.a)] ∧
      t = State.done { s with
        mem := t.mem, wz := join s.main.a (s.main.c + 1), bus := .memWrite s.bc s.main.a :: s.bus } 3) ∧
    (∃ t, exec .ldIndDeA s = .next t ∧ s.stores t [(s.de, s.main.a)] ∧
      t = State.done { s with
        mem := t.mem, wz := join s.main.a (s.main.e + 1), bus := .memWrite s.de s.main.a :: s.bus } 3) ∧
    (∃ t, exec (.ldIndNnA nn) s = .next t ∧ s.stores t [(nn, s.main.a)] ∧
      t = State.done { s with mem := t.mem, wz := join s.main.a (lo (nn + 1)), bus := .memWrite nn s.main.a :: s.bus } 9)

/-- R172 to R177: 16-bit loads from and stores to an absolute address, low byte first, the second byte at the address plus 1 modulo
65536. -/
def Obligations.LoadAndStoreWord : Prop :=
  ∀ (s : State) (xy : IndexReg) (dd : Pair) (nn : Word),
    let v := join (s.peekNext nn) (s.peek nn)
    let read := { s with
      wz := nn + 1, bus := .memRead (nn + 1) (s.peekNext nn) :: .memRead nn (s.peek nn) :: s.bus }
    exec (.ldHlIndNn nn) s = .next ((State.setHl read v).done 12) ∧
    exec (.ldDdIndNn dd nn) s = .next ((State.setPair read dd v).done 12) ∧
    exec (.ldXyIndNn xy nn) s = .next ((State.setXy read xy v).done 12) ∧
    (∃ t, exec (.ldIndNnHl nn) s = .next t ∧ s.stores t [(nn + 1, s.main.h), (nn, s.main.l)] ∧
      t = State.done { s with
        mem := t.mem, wz := nn + 1,
        bus := .memWrite (nn + 1) s.main.h :: .memWrite nn s.main.l :: s.bus } 12) ∧
    (∃ t, exec (.ldIndNnDd dd nn) s = .next t ∧ s.stores t [(nn + 1, hi (s.pair dd)), (nn, lo (s.pair dd))] ∧
      t = State.done { s with
        mem := t.mem, wz := nn + 1,
        bus := .memWrite (nn + 1) (hi (s.pair dd)) :: .memWrite nn (lo (s.pair dd)) :: s.bus } 12) ∧
    (∃ t, exec (.ldIndNnXy xy nn) s = .next t ∧ s.stores t [(nn + 1, hi (s.xy xy)), (nn, lo (s.xy xy))] ∧
      t = State.done { s with
        mem := t.mem, wz := nn + 1,
        bus := .memWrite (nn + 1) (hi (s.xy xy)) :: .memWrite nn (lo (s.xy xy)) :: s.bus } 12)

/-- R12, R180 to R183: `PUSH` and `POP` of every pair, its high byte at the higher address (for `AF`: `A`, then all eight bits of `F`);
and, where RAM stands at the two addresses (R82, assumption log 4), that a pair pushed is popped again into registers that hold
anything else by then. -/
def Obligations.PushAndPop : Prop :=
  ∀ s : State,
    let pushes := fun (i : Instr) (h l : Byte) =>
      ∃ t, exec i s = .next t ∧ s.stores t [(s.sp - 2, l), (s.sp - 1, h)] ∧
        t = State.done { s with
          sp := s.sp - 2, mem := t.mem, bus := .memWrite (s.sp - 2) l :: .memWrite (s.sp - 1) h :: s.bus } 7
    let l := s.peek s.sp
    let h := s.peekNext s.sp
    let read := { s with sp := s.sp + 2, bus := .memRead (s.sp + 1) h :: .memRead s.sp l :: s.bus }
    (pushes (.pushQq .bc) s.main.b s.main.c ∧ pushes (.pushQq .de) s.main.d s.main.e ∧
      pushes (.pushQq .hl) s.main.h s.main.l ∧ pushes (.pushQq .af) s.main.a s.main.f ∧
      pushes (.pushXy .ix) (hi s.ix) (lo s.ix) ∧ pushes (.pushXy .iy) (hi s.iy) (lo s.iy)) ∧
    (exec (.popQq .bc) s = .next (State.done { read with main := { s.main with b := h, c := l } } 6) ∧
      exec (.popQq .de) s = .next (State.done { read with main := { s.main with d := h, e := l } } 6) ∧
      exec (.popQq .hl) s = .next (State.done { read with main := { s.main with h := h, l := l } } 6) ∧
      exec (.popQq .af) s = .next (State.done { read with main := { s.main with a := h, f := l } } 6) ∧
      exec (.popXy .ix) s = .next (State.done { read with ix := join h l } 6) ∧
      exec (.popXy .iy) s = .next (State.done { read with iy := join h l } 6)) ∧
    (s.memKind (s.sp - 1) = .ram → s.memKind (s.sp - 2) = .ram → ∀ (m : RegSet) (x y : Word),
      let restores := fun (push pop : Instr) (m' : RegSet) (x' y' : Word) =>
        ∃ t u, exec push s = .next t ∧ exec pop { t with main := m, ix := x, iy := y } = .next u ∧
          u.main = m' ∧ u.ix = x' ∧ u.iy = y' ∧ u.sp = s.sp ∧ u.mem = t.mem
      restores (.pushQq .bc) (.popQq .bc) { m with b := s.main.b, c := s.main.c } x y ∧
      restores (.pushQq .de) (.popQq .de) { m with d := s.main.d, e := s.main.e } x y ∧
      restores (.pushQq .hl) (.popQq .hl) { m with h := s.main.h, l := s.main.l } x y ∧
      restores (.pushQq .af) (.popQq .af) { m with a := s.main.a, f := s.main.f } x y ∧
      restores (.pushXy .ix) (.popXy .ix) m s.ix y ∧
      restores (.pushXy .iy) (.popXy .iy) m x s.iy)

/-! ### Exchange, block transfer and search (42_exchange_block.md) -/

/-- R200 to R202: the register exchanges, and that each of them applied twice restores every register. -/
def Obligations.Exchanges : Prop :=
  ∀ s : State,
    exec .exDeHl s = .next (State.done { s with
      main := { s.main with d := s.main.h, e := s.main.l, h := s.main.d, l := s.main.e } } 0) ∧
    exec .exAfAf s = .next (State.done { s with
      main := { s.main with a := s.shadow.a, f := s.shadow.f }
      shadow := { s.shadow with a := s.main.a, f := s.main.f } } 0) ∧
    exec .exx s = .next (State.done { s with
      main := { a := s.main.a, f := s.main.f, b := s.shadow.b, c := s.shadow.c, d := s.shadow.d, e := s.shadow.e,
                h := s.shadow.h, l := s.shadow.l }
      shadow := { a := s.shadow.a, f := s.shadow.f, b := s.main.b, c := s.main.c, d := s.main.d, e := s.main.e,
                  h := s.main.h, l := s.main.l } } 0) ∧
    ∀ i ∈ [Instr.exDeHl, .exAfAf, .exx], ∃ t, exec i s = .next t ∧ exec i t = .next (s.done 0)

/-- R203, R204: the exchanges with the word on the stack. -/
def Obligations.ExchangeWithStack : Prop :=
  ∀ (s : State) (xy : IndexReg),
    let v := join (s.peekNext s.sp) (s.peek s.sp)
    let reads : List BusAccess := [.memRead (s.sp + 1) (s.peekNext s.sp), .memRead s.sp (s.peek s.sp)]
    (∃ t, exec .exIndSpHl s = .next t ∧ s.stores t [(s.sp, s.main.l), (s.sp + 1, s.main.h)] ∧
      t = State.done { s with
        main := { s.main with h := hi v, l := lo v }, wz := v, mem := t.mem,
        bus := .memWrite s.sp s.main.l :: .memWrite (s.sp + 1) s.main.h :: (reads ++ s.bus) } 15) ∧
    (∃ t, exec (.exIndSpXy xy) s = .next t ∧ s.stores t [(s.sp, lo (s.xy xy)), (s.sp + 1, hi (s.xy xy))] ∧
      t = State.done { s.setXy xy v with
        wz := v, mem := t.mem,
        bus := .memWrite s.sp (lo (s.xy xy)) :: .memWrite (s.sp + 1) (hi (s.xy xy)) :: (reads ++ s.bus) } 15)

/-- R205 to R209: one element of the block transfers. `again` tells the repeating forms: while `BC` is not 0 after the decrement,
`PC` goes back to the `ED` byte and 5 T-states are added. -/
def Obligations.BlockTransfer : Prop :=
  ∀ s : State, ∀ p ∈ [(Instr.ldi, (1 : Word), false), (.ldir, 1, true), (.ldd, -1, false), (.lddr, -1, true)],
    let v := s.peek s.hl
    let n := s.main.a + v
    let more : Bool := s.bc ≠ 1
    let again := p.2.2 && more
    ∃ t, exec p.1 s = .next t ∧ s.stores t [(s.de, v)] ∧
      t = State.done { s with
        main := { a := s.main.a, b := hi (s.bc - 1), c := lo (s.bc - 1), d := hi (s.de + p.2.1), e := lo (s.de + p.2.1),
                  h := hi (s.hl + p.2.1), l := lo (s.hl + p.2.1),
                  f := flagByte (s.main.f.getLsbD 7) (s.main.f.getLsbD 6) (n.getLsbD 1) false (n.getLsbD 3) more false
                    (s.main.f.getLsbD 0) }
        pc := if again then s.pc - 2 else s.pc
        wz := if again then s.pc - 1 else s.wz
        mem := t.mem
        bus := .memWrite s.de v :: .memRead s.hl v :: s.bus } (if again then 13 else 8)

/-- R209 to R213: one element of the block searches; the repeating forms stop on a match or when `BC` runs out. -/
def Obligations.BlockSearch : Prop :=
  ∀ s : State, ∀ p ∈ [(Instr.cpi, (1 : Word), false), (.cpir, 1, true), (.cpd, -1, false), (.cpdr, -1, true)],
    let v := s.peek s.hl
    let r := s.main.a - v
    let h := decide (s.main.a.toNat % 16 < v.toNat % 16)
    let n := if h then r - 1 else r
    let more : Bool := s.bc ≠ 1
    let again := p.2.2 && more && (s.main.a ≠ v : Bool)
    exec p.1 s = .next (State.done { s with
      main := { s.main with
        b := hi (s.bc - 1), c := lo (s.bc - 1), h := hi (s.hl + p.2.1), l := lo (s.hl + p.2.1),
        f := flagByte (r.getLsbD 7) (s.main.a = v) (n.getLsbD 1) h (n.getLsbD 3) more true (s.main.f.getLsbD 0) }
      pc := if again then s.pc - 2 else s.pc
      wz := if again then s.pc - 1 else s.wz + p.2.1
      bus := .memRead s.hl v :: s.bus } (if again then 13 else 8))

/-! ### Arithmetic and logic (43_alu8.md, 44_general_control.md, 45_alu16.md) -/

/-- R234 to R242: the eight accumulator operations in their five operand forms. Of the registers only `A` and `F` change, and `WZ` in
the indexed form; memory is read, not written. -/
def Obligations.AccumulatorOperations : Prop :=
  (∀ p ∈ [Instr.addR, .adcR, .subR, .sbcR, .andR, .xorR, .orR, .cpR].zip aluFunctions, ∀ (s : State) (r : Reg8),
    exec (p.1 r) s = .next ((s.setAF (p.2 s.main.a (s.reg r) s.main.f)).done 0)) ∧
  (∀ p ∈ [Instr.addN, .adcN, .subN, .sbcN, .andN, .xorN, .orN, .cpN].zip aluFunctions, ∀ (s : State) (n : Byte),
    exec (p.1 n) s = .next ((s.setAF (p.2 s.main.a n s.main.f)).done 3)) ∧
  (∀ p ∈ [Instr.addIndHl, .adcIndHl, .subIndHl, .sbcIndHl, .andIndHl, .xorIndHl, .orIndHl, .cpIndHl].zip aluFunctions,
    ∀ s : State, exec p.1 s = .next (State.done { s.setAF (p.2 s.main.a (s.peek s.hl) s.main.f) with
      bus := .memRead s.hl (s.peek s.hl) :: s.bus } 3)) ∧
  (∀ p ∈ [Instr.addXyHalf, .adcXyHalf, .subXyHalf, .sbcXyHalf, .andXyHalf, .xorXyHalf, .orXyHalf, .cpXyHalf].zip
      aluFunctions, ∀ (s : State) (xy : IndexReg) (h : Half),
    exec (p.1 xy h) s = .next ((s.setAF (p.2 s.main.a (s.half xy h) s.main.f)).done 0)) ∧
  (∀ p ∈ [Instr.addIndXy, .adcIndXy, .subIndXy, .sbcIndXy, .andIndXy, .xorIndXy, .orIndXy, .cpIndXy].zip aluFunctions,
    ∀ (s : State) (xy : IndexReg) (d : Byte),
    exec (p.1 xy d) s = .next (State.done { s.setAF (p.2 s.main.a (s.peek (s.ea xy d)) s.main.f) with
      wz := s.ea xy d, bus := .memRead (s.ea xy d) (s.peek (s.ea xy d)) :: s.bus } 11))

/-- R243 to R248: increments and decrements of a register, a half and a byte of memory, which is read once and written once. -/
def Obligations.IncrementAndDecrement : Prop :=
  (∀ p ∈ [(Instr.incR, inc8), (.decR, dec8)], ∀ (s : State) (r : Reg8),
    exec (p.1 r) s = .next (((s.setReg r (p.2 (s.reg r) s.main.f).1).setF (p.2 (s.reg r) s.main.f).2).done 0)) ∧
  (∀ p ∈ [(Instr.incXyHalf, inc8), (.decXyHalf, dec8)], ∀ (s : State) (xy : IndexReg) (h : Half),
    exec (p.1 xy h) s =
      .next (((s.setHalf xy h (p.2 (s.half xy h) s.main.f).1).setF (p.2 (s.half xy h) s.main.f).2).done 0)) ∧
  (∀ p ∈ [(Instr.incIndHl, inc8), (.decIndHl, dec8)], ∀ s : State,
    let v := s.peek s.hl
    let new := p.2 v s.main.f
    ∃ t, exec p.1 s = .next t ∧ s.stores t [(s.hl, new.1)] ∧
      t = State.done { s with
        main := { s.main with f := new.2 }, mem := t.mem,
        bus := .memWrite s.hl new.1 :: .memRead s.hl v :: s.bus } 7) ∧
  (∀ p ∈ [(Instr.incIndXy, inc8), (.decIndXy, dec8)], ∀ (s : State) (xy : IndexReg) (d : Byte),
    let v := s.peek (s.ea xy d)
    let new := p.2 v s.main.f
    ∃ t, exec (p.1 xy d) s = .next t ∧ s.stores t [(s.ea xy d, new.1)] ∧
      t = State.done { s with
        main := { s.main with f := new.2 }, mem := t.mem, wz := s.ea xy d,
        bus := .memWrite (s.ea xy d) new.1 :: .memRead (s.ea xy d) v :: s.bus } 15)

/-- R270 to R274: `DAA`, `CPL`, `NEG`, `CCF`, `SCF`, every flag. -/
def Obligations.GeneralArithmetic : Prop :=
  ∀ (s : State) (y : BitVec 3),
    let a := s.main.a
    let f := s.main.f
    let low := a.toNat % 16
    let high := f.getLsbD 0 || decide (0x99 < a.toNat)
    let adjust : Nat := (if f.getLsbD 4 || decide (9 < low) then 0x06 else 0) + (if high then 0x60 else 0)
    let r := if f.getLsbD 1 then BitVec.ofInt 8 ((a.toNat : Int) - adjust) else BitVec.ofNat 8 (a.toNat + adjust)
    let half := if f.getLsbD 1 then f.getLsbD 4 && decide (low < 6) else decide (9 < low)
    exec .daa s = .next (State.done { s with main := { s.main with
      a := r, f := resultFlags r half (evenParity r) (f.getLsbD 1) high } } 0) ∧
    exec .cpl s = .next (State.done { s with main := { s.main with
      a := ~~~a
      f := flagByte (f.getLsbD 7) (f.getLsbD 6) (!a.getLsbD 5) true (!a.getLsbD 3) (f.getLsbD 2) true (f.getLsbD 0) } } 0) ∧
    exec (.neg y) s = .next (State.done { s with main := { s.main with
      a := -a, f := resultFlags (-a) (low ≠ 0) (a = 0x80) true (a ≠ 0) } } 0) ∧
    exec .ccf s = .next (State.done { s with main := { s.main with
      f := flagByte (f.getLsbD 7) (f.getLsbD 6) (a.getLsbD 5) (f.getLsbD 0) (a.getLsbD 3) (f.getLsbD 2) false
        (!f.getLsbD 0) } } 0) ∧
    exec .scf s = .next (State.done { s with main := { s.main with
      f := flagByte (f.getLsbD 7) (f.getLsbD 6) (a.getLsbD 5) false (a.getLsbD 3) (f.getLsbD 2) false true } } 0)

/-- R275 to R279, R281: the no-ops, `HALT`, `DI`, `EI` (with its one-step block, parameter `EI_DELAY`) and `IM`. -/
def Obligations.CpuControl : Prop :=
  ∀ (s : State) (op : Byte) (u v : Bool),
    exec .nop s = .next (s.done 0) ∧
    exec (.edNop op) s = .next (s.done 0) ∧
    exec .halt s = .next (State.done { s with halted := true, pc := s.pc - 1 } 0) ∧
    exec .di s = .next (State.done { s with iff1 := false, iff2 := false } 0) ∧
    exec .ei s = .next (State.done { s with iff1 := true, iff2 := true, intBlocked := true } 0) ∧
    exec (.im0 u v) s = .next (State.done { s with im := .mode0 } 0) ∧
    exec (.im1 u) s = .next (State.done { s with im := .mode1 } 0) ∧
    exec (.im2 u) s = .next (State.done { s with im := .mode2 } 0)

/-- R300, R303 to R307: the 16-bit additions that keep `S`, `Z` and `PV`, and the 16-bit increments and decrements, which write no
flag. -/
def Obligations.AddAndCount16 : Prop :=
  ∀ (s : State) (ss : Pair) (xy : IndexReg) (pp : IndexedPair),
    let flags := fun a b : Word =>
      let r := BitVec.ofNat 16 (a.toNat + b.toNat)
      flagByte (s.main.f.getLsbD 7) (s.main.f.getLsbD 6) (r.getLsbD 13)
        (decide (0x0FFF < a.toNat % 0x1000 + b.toNat % 0x1000)) (r.getLsbD 11) (s.main.f.getLsbD 2) false
        (decide (0xFFFF < a.toNat + b.toNat))
    exec (.addHlSs ss) s = .next (State.done { s with
      main := { s.main with
        h := hi (s.hl + s.pair ss), l := lo (s.hl + s.pair ss), f := flags s.hl (s.pair ss) }
      wz := s.hl + 1 } 7) ∧
    exec (.addXyPp xy pp) s = .next (State.done { s.setXy xy (s.xy xy + s.indexedPair xy pp) with
      main := { s.main with f := flags (s.xy xy) (s.indexedPair xy pp) }
      wz := s.xy xy + 1 } 7) ∧
    exec (.incSs ss) s = .next ((s.setPair ss (s.pair ss + 1)).done 2) ∧
    exec (.decSs ss) s = .next ((s.setPair ss (s.pair ss - 1)).done 2) ∧
    exec (.incXy xy) s = .next ((s.setXy xy (s.xy xy + 1)).done 2) ∧
    exec (.decXy xy) s = .next ((s.setXy xy (s.xy xy - 1)).done 2) ∧
    (∀ v, (s.setPair ss v).main.f = s.main.f ∧ (s.setPair ss v).pair ss = v)

/-- R301, R302: the 16-bit additions and subtractions with carry, with signed overflow. -/
def Obligations.AddAndSubtractCarry16 : Prop :=
  ∀ (s : State) (ss : Pair),
    let a := s.hl
    let b := s.pair ss
    let c := s.main.f.getLsbD 0
    let sum := BitVec.ofNat 16 (a.toNat + b.toNat + c.toNat)
    let diff := BitVec.ofInt 16 ((a.toNat : Int) - b.toNat - c.toNat)
    exec (.adcHlSs ss) s = .next (State.done { s with
      main := { s.main with
        h := hi sum, l := lo sum
        f := flagByte (sum.getLsbD 15) (sum = 0) (sum.getLsbD 13)
          (decide (0x0FFF < a.toNat % 0x1000 + b.toNat % 0x1000 + c.toNat)) (sum.getLsbD 11)
          (outside (a.toInt + b.toInt + c.toNat) (-32768) 32767) false (decide (0xFFFF < a.toNat + b.toNat + c.toNat)) }
      wz := a + 1 } 7) ∧
    exec (.sbcHlSs ss) s = .next (State.done { s with
      main := { s.main with
        h := hi diff, l := lo diff
        f := flagByte (diff.getLsbD 15) (diff = 0) (diff.getLsbD 13)
          (decide (a.toNat % 0x1000 < b.toNat % 0x1000 + c.toNat)) (diff.getLsbD 11)
          (outside (a.toInt - b.toInt - c.toNat) (-32768) 32767) true (decide (a.toNat < b.toNat + c.toNat)) }
      wz := a + 1 } 7)

/-! ### Rotates, shifts and bits (46_rotate_shift.md, 47_bit.md) -/

/-- R320 to R323, R325 to R333: the accumulator rotates, which keep `S`, `Z` and `PV`, and the eight bit-table operations on a
register. -/
def Obligations.RotateRegister : Prop :=
  (∀ p ∈ [(Instr.rlca, RotOp.rlc), (.rla, .rl), (.rrca, .rrc), (.rra, .rr)], ∀ s : State,
    let f := s.main.f
    let rc := rot8 p.2 s.main.a (f.getLsbD 0)
    exec p.1 s = .next (State.done { s with main := { s.main with
      a := rc.1
      f := flagByte (f.getLsbD 7) (f.getLsbD 6) (rc.1.getLsbD 5) false (rc.1.getLsbD 3) (f.getLsbD 2) false rc.2 } } 0)) ∧
  (∀ p ∈ [Instr.rlcR, .rrcR, .rlR, .rrR, .slaR, .sraR, .sllR, .srlR].zip rotOps, ∀ (s : State) (r : Reg8),
    exec (p.1 r) s =
      .next (((s.setReg r (rotFlags p.2 (s.reg r) s.main.f).1).setF (rotFlags p.2 (s.reg r) s.main.f).2).done 0))

/-- R325 to R333: the eight bit-table operations on a byte of memory: at `HL`, at an indexed address, and at an indexed address
with a copy of the result in a register. -/
def Obligations.RotateMemory : Prop :=
  (∀ p ∈ [Instr.rlcIndHl, .rrcIndHl, .rlIndHl, .rrIndHl, .slaIndHl, .sraIndHl, .sllIndHl, .srlIndHl].zip rotOps,
    ∀ s : State,
    let new := rotFlags p.2 (s.peek s.hl) s.main.f
    ∃ t, exec p.1 s = .next t ∧ s.stores t [(s.hl, new.1)] ∧
      t = State.done { s with
        main := { s.main with f := new.2 }, mem := t.mem,
        bus := .memWrite s.hl new.1 :: .memRead s.hl (s.peek s.hl) :: s.bus } 7) ∧
  (∀ p ∈ [Instr.rlcIndXy, .rrcIndXy, .rlIndXy, .rrIndXy, .slaIndXy, .sraIndXy, .sllIndXy, .srlIndXy].zip rotOps,
    ∀ (s : State) (xy : IndexReg) (d : Byte),
    let a := s.ea xy d
    let new := rotFlags p.2 (s.peek a) s.main.f
    ∃ t, exec (p.1 xy d) s = .next t ∧ s.stores t [(a, new.1)] ∧
      t = State.done { s with
        main := { s.main with f := new.2 }, mem := t.mem, wz := a,
        bus := .memWrite a new.1 :: .memRead a (s.peek a) :: s.bus } 15) ∧
  (∀ p ∈ [Instr.rlcIndXyR, .rrcIndXyR, .rlIndXyR, .rrIndXyR, .slaIndXyR, .sraIndXyR, .sllIndXyR, .srlIndXyR].zip rotOps,
    ∀ (s : State) (xy : IndexReg) (d : Byte) (r : Reg8),
    let a := s.ea xy d
    let new := rotFlags p.2 (s.peek a) s.main.f
    ∃ t, exec (p.1 xy d r) s = .next t ∧ s.stores t [(a, new.1)] ∧
      t = State.done { (s.setF new.2).setReg r new.1 with
        mem := t.mem, wz := a,
        bus := .memWrite a new.1 :: .memRead a (s.peek a) :: s.bus } 15)

/-- R334, R335: the digit rotates, on the three digits as numbers. -/
def Obligations.DigitRotates : Prop :=
  ∀ s : State,
    let v := s.peek s.hl
    let a := s.main.a
    let after := fun (mem acc : Nat) (t : State) =>
      s.stores t [(s.hl, BitVec.ofNat 8 mem)] ∧
      t = State.done { s with
        main := { s.main with
          a := BitVec.ofNat 8 acc
          f := resultFlags (BitVec.ofNat 8 acc) false (evenParity (BitVec.ofNat 8 acc)) false (s.main.f.getLsbD 0) }
        wz := s.hl + 1, mem := t.mem
        bus := .memWrite s.hl (BitVec.ofNat 8 mem) :: .memRead s.hl v :: s.bus } 10
    (∃ t, exec .rld s = .next t ∧
      after (v.toNat % 16 * 16 + a.toNat % 16) (a.toNat / 16 * 16 + v.toNat / 16) t) ∧
    (∃ t, exec .rrd s = .next t ∧
      after (a.toNat % 16 * 16 + v.toNat / 16) (a.toNat / 16 * 16 + v.toNat % 16) t)

/-- R360 to R363: the bit tests and where each takes `F5` and `F3` from; no register but `F` (and `WZ` in the indexed form) changes. -/
def Obligations.BitTest : Prop :=
  ∀ (s : State) (b z : BitVec 3) (r : Reg8) (xy : IndexReg) (d : Byte),
    let flags := fun v from53 : Byte =>
      flagByte (decide (b = 7) && v.getLsbD b.toNat) (!v.getLsbD b.toNat) (from53.getLsbD 5) true (from53.getLsbD 3)
        (!v.getLsbD b.toNat) false (s.main.f.getLsbD 0)
    exec (.bitR b r) s = .next (State.done { s with main := { s.main with f := flags (s.reg r) (s.reg r) } } 0) ∧
    exec (.bitIndHl b) s = .next (State.done { s with
      main := { s.main with f := flags (s.peek s.hl) (hi s.wz) }, bus := .memRead s.hl (s.peek s.hl) :: s.bus } 4) ∧
    exec (.bitIndXy xy b d z) s = .next (State.done { s with
      main := { s.main with f := flags (s.peek (s.ea xy d)) (hi (s.ea xy d)) }
      wz := s.ea xy d, bus := .memRead (s.ea xy d) (s.peek (s.ea xy d)) :: s.bus } 12)

/-- R364 to R369: setting and resetting a bit of a register or of a byte of memory; no flag changes. -/
def Obligations.SetAndResetBit : Prop :=
  ∀ (s : State) (b : BitVec 3) (r : Reg8) (xy : IndexReg) (d : Byte),
    let one : Byte := BitVec.ofNat 8 (2 ^ b.toNat)
    let after := fun (new : Byte → Byte) (a wz : Word) (u : State) (charged : Nat) (t : State) =>
      s.stores t [(a, new (s.peek a))] ∧
      t = State.done { u with
        mem := t.mem, wz := wz,
        bus := .memWrite a (new (s.peek a)) :: .memRead a (s.peek a) :: s.bus } charged
    let set := fun v : Byte => v ||| one
    let res := fun v : Byte => v &&& ~~~one
    let a := s.ea xy d
    exec (.setR b r) s = .next ((s.setReg r (set (s.reg r))).done 0) ∧
    exec (.resR b r) s = .next ((s.setReg r (res (s.reg r))).done 0) ∧
    (∃ t, exec (.setIndHl b) s = .next t ∧ after set s.hl s.wz s 7 t) ∧
    (∃ t, exec (.resIndHl b) s = .next t ∧ after res s.hl s.wz s 7 t) ∧
    (∃ t, exec (.setIndXy xy b d) s = .next t ∧ after set a a s 15 t) ∧
    (∃ t, exec (.resIndXy xy b d) s = .next t ∧ after res a a s 15 t) ∧
    (∃ t, exec (.setIndXyR xy b d r) s = .next t ∧ after set a a (s.setReg r (set (s.peek a))) 15 t) ∧
    (∃ t, exec (.resIndXyR xy b d r) s = .next t ∧ after res a a (s.setReg r (res (s.peek a))) 15 t)

/-! ### Jumps, calls and returns (48_jump_call_return.md) -/

/-- R107, R380 to R387: the conditions and the jumps; no flag, no stack and no byte of memory changes. -/
def Obligations.Jumps : Prop :=
  (∀ f : Byte, [Cond.nz, .z, .nc, .c, .po, .pe, .p, .m].map (condHolds · f) =
    [!f.getLsbD 6, f.getLsbD 6, !f.getLsbD 0, f.getLsbD 0, !f.getLsbD 2, f.getLsbD 2, !f.getLsbD 7, f.getLsbD 7]) ∧
  ∀ (s : State) (cc : Cond) (nn : Word) (e : Byte) (xy : IndexReg),
    exec (.jpNn nn) s = .next (State.done { s with pc := nn, wz := nn } 6) ∧
    exec (.jpCcNn cc nn) s =
      .next (State.done { s with pc := if condHolds cc s.main.f then nn else s.pc, wz := nn } 6) ∧
    exec (.jr e) s = .next (State.done { s with pc := s.relative e, wz := s.relative e } 8) ∧
    exec (.jrCc cc e) s = .next (if condHolds cc s.main.f
      then State.done { s with pc := s.relative e, wz := s.relative e } 8 else s.done 3) ∧
    exec .jpIndHl s = .next (State.done { s with pc := s.hl } 0) ∧
    exec (.jpIndXy xy) s = .next (State.done { s with pc := s.xy xy } 0) ∧
    exec (.djnz e) s = .next (if s.main.b = 1
      then State.done { s with main := { s.main with b := 0 } } 4
      else State.done { s with
        main := { s.main with b := s.main.b - 1 }, pc := s.relative e, wz := s.relative e } 9)

/-- R388, R389, R394: calls and restarts push the address of the next instruction, high byte first. -/
def Obligations.Calls : Prop :=
  ∀ (s : State) (cc : Cond) (nn : Word) (p : BitVec 3),
    let after := fun (target wz : Word) (charged : Nat) (t : State) =>
      s.stores t [(s.sp - 2, lo s.pc), (s.sp - 1, hi s.pc)] ∧
      t = State.done { s with
        sp := s.sp - 2, pc := target, wz := wz, mem := t.mem,
        bus := .memWrite (s.sp - 2) (lo s.pc) :: .memWrite (s.sp - 1) (hi s.pc) :: s.bus } charged
    (∃ t, exec (.callNn nn) s = .next t ∧ after nn nn 13 t) ∧
    (∃ t, exec (.callCcNn cc nn) s = .next t ∧
      if condHolds cc s.main.f then after nn nn 13 t else t = State.done { s with wz := nn } 6) ∧
    (∃ t, exec (.rst p) s = .next t ∧ after (BitVec.ofNat 16 (8 * p.toNat)) (BitVec.ofNat 16 (8 * p.toNat)) 7 t)

/-- R390 to R393, R455: returns take `PC` from the stack; `RETN` and `RETI` also copy `IFF2` to `IFF1`. -/
def Obligations.Returns : Prop :=
  ∀ (s : State) (cc : Cond) (y : BitVec 3),
    let target := join (s.peekNext s.sp) (s.peek s.sp)
    let back := { s with
      sp := s.sp + 2, pc := target, wz := target,
      bus := .memRead (s.sp + 1) (s.peekNext s.sp) :: .memRead s.sp (s.peek s.sp) :: s.bus }
    exec .ret s = .next (State.done back 6) ∧
    exec (.retCc cc) s = .next (if condHolds cc s.main.f then State.done back 7 else s.done 1) ∧
    exec .reti s = .next (State.done { back with iff1 := s.iff2 } 6) ∧
    exec (.retn y) s = .next (State.done { back with iff1 := s.iff2 } 6)

/-! ### Input and output (49_io.md) -/

/-- R73, R75, R410 to R415: single transfers. The answer of a port is the one the environment has supplied, or else a value nothing
constrains (assumption log 6); the statement holds for every answer. -/
def Obligations.SingleInputAndOutput : Prop :=
  ∀ (s : State) (r : Reg8) (n v : Byte) (vs : List Byte) (q : Word),
    State.portAnswer { s with portAnswers := v :: vs } q = v ∧
    State.portAnswer { s with portAnswers := [] } q = Config.freePortByte s.platform s.portReads s.bus q ∧
    (let p := join s.main.a n
     exec (.inAIndN n) s = .next (State.done { s with
      main := { s.main with a := s.portAnswer p }, wz := p + 1, portAnswers := s.portAnswers.tail,
      portReads := s.portReads + 1, bus := .portRead p (s.portAnswer p) :: s.bus } 7)) ∧
    (let x := s.portAnswer s.bc
     let flags := resultFlags x false (evenParity x) false (s.main.f.getLsbD 0)
     let read := { s with
      wz := s.bc + 1, portAnswers := s.portAnswers.tail, portReads := s.portReads + 1,
      bus := .portRead s.bc x :: s.bus }
     exec (.inRIndC r) s = .next (((State.setReg read r x).setF flags).done 4) ∧
     exec .inIndC s = .next ((State.setF read flags).done 4)) ∧
    exec (.outIndNA n) s = .next (State.done { s with
      wz := join s.main.a (n + 1), bus := .portWrite (join s.main.a n) s.main.a :: s.bus } 7) ∧
    exec (.outIndCR r) s = .next (State.done { s with
      wz := s.bc + 1, bus := .portWrite s.bc (s.reg r) :: s.bus } 4) ∧
    exec .outIndC0 s = .next (State.done { s with wz := s.bc + 1, bus := .portWrite s.bc 0x00 :: s.bus } 4)

/-- R416 to R420: one element of the block inputs. The port address uses `B` before the decrement; the repeating forms go back to
the `ED` byte while the new `B` is not 0. -/
def Obligations.BlockInput : Prop :=
  ∀ s : State, ∀ p ∈ [(Instr.ini, (1 : Word), (1 : Byte), false), (.inir, 1, 1, true), (.ind, -1, -1, false),
      (.indr, -1, -1, true)],
    let v := s.portAnswer s.bc
    let b := s.main.b - 1
    let k := v.toNat + (s.main.c + p.2.2.1).toNat
    let again := p.2.2.2 && (b ≠ 0 : Bool)
    ∃ t, exec p.1 s = .next t ∧ s.stores t [(s.hl, v)] ∧
      t = State.done { s with
        main := { s.main with
          b := b, h := hi (s.hl + p.2.1), l := lo (s.hl + p.2.1),
          f := resultFlags b (decide (255 < k)) (evenParity (BitVec.ofNat 8 (k % 8) ^^^ b)) (v.getLsbD 7)
            (decide (255 < k)) }
        pc := if again then s.pc - 2 else s.pc
        wz := s.bc + p.2.1
        portAnswers := s.portAnswers.tail
        portReads := s.portReads + 1
        mem := t.mem
        bus := .memWrite s.hl v :: .portRead s.bc v :: s.bus } (if again then 13 else 8)

/-- R416, R421 to R424: one element of the block outputs. The port address uses `B` after the decrement. -/
def Obligations.BlockOutput : Prop :=
  ∀ s : State, ∀ p ∈ [(Instr.outi, (1 : Word), false), (.otir, 1, true), (.outd, -1, false), (.otdr, -1, true)],
    let v := s.peek s.hl
    let b := s.main.b - 1
    let port := join b s.main.c
    let k := v.toNat + (lo (s.hl + p.2.1)).toNat
    let again := p.2.2 && (b ≠ 0 : Bool)
    exec p.1 s = .next (State.done { s with
      main := { s.main with
        b := b, h := hi (s.hl + p.2.1), l := lo (s.hl + p.2.1),
        f := resultFlags b (decide (255 < k)) (evenParity (BitVec.ofNat 8 (k % 8) ^^^ b)) (v.getLsbD 7)
          (decide (255 < k)) }
      pc := if again then s.pc - 2 else s.pc
      wz := port + p.2.1
      bus := .portWrite port v :: .memRead s.hl v :: s.bus } (if again then 13 else 8))

/-! ### Prefix bytes (30_encoding.md R112 to R117) -/

/-- R112 to R115, R117: a prefix byte selects a table or an index register, blocks the maskable interrupt and changes nothing else;
the two rows of the indexed table that hand over to another table complete exactly as the instruction they hold does. -/
def Obligations.PrefixBytesAndHandOver : Prop :=
  ∀ (s : State) (xy : IndexReg) (i : Instr),
    exec .prefixCb s = .next { s with prefixMode := .bit, intBlocked := true } ∧
    exec .prefixEd s = .next { s with prefixMode := .extended, intBlocked := true } ∧
    exec (.xyPrefixEd xy) s = .next { s with prefixMode := .extended, intBlocked := true } ∧
    exec .prefixDd s = .next { s with indexMode := some .ix, intBlocked := true } ∧
    exec .prefixFd s = .next { s with indexMode := some .iy, intBlocked := true } ∧
    exec (.xyPrefixDd xy) s = .next { s with indexMode := some .ix, intBlocked := true } ∧
    exec (.xyPrefixFd xy) s = .next { s with indexMode := some .iy, intBlocked := true } ∧
    (Instr.wf (.xyStandard xy i) = true → ∃ t, exec (.xyStandard xy i) s = .next t ∧ exec i s = .next t) ∧
    (Instr.wf (.indexedBit xy i) = true → ∃ t, exec (.indexedBit xy i) s = .next t ∧ exec i s = .next t)
end

