-- ==== Sys2Proof/Laws/Bits.lean ====
section
/-! SUPPORT. Halves, words and flag bits: what the bit-field helpers of Machine/Bits.lean give, bit by bit. -/

namespace Sys2Proof

/-- The high half of a word made of two bytes (R8). -/
@[simp] theorem hi_join (h l : Byte) : hi (join h l) = h := by
  apply BitVec.eq_of_getLsbD_eq
  intro i hi'
  simp only [join, hi, BitVec.getLsbD_append, BitVec.getLsbD_extractLsb']
  simp [show i < 8 by omega]

/-- The low half of a word made of two bytes (R8). -/
@[simp] theorem lo_join (h l : Byte) : lo (join h l) = l := by
  apply BitVec.eq_of_getLsbD_eq
  intro i hi'
  simp only [join, lo, BitVec.getLsbD_append, BitVec.getLsbD_extractLsb']
  simp [show i < 8 by omega]

/-- A word is made of its two halves (R8, R21). -/
@[simp] theorem join_hi_lo (v : Word) : join (hi v) (lo v) = v := by
  apply BitVec.eq_of_getLsbD_eq
  intro i h
  simp only [join, hi, lo, BitVec.getLsbD_append, BitVec.getLsbD_extractLsb']
  by_cases h8 : i < 8
  · simp [h8]
  · simp [h8, show i - 8 < 8 by omega, show 8 + (i - 8) = i by omega]

/-- The number a word made of two bytes stands for (R8). -/
theorem toNat_join (h l : Byte) : (join h l).toNat = 256 * h.toNat + l.toNat := by
  have := l.isLt
  simp only [join, BitVec.toNat_append]
  rw [Nat.shiftLeft_eq, Nat.or_comm, ← Nat.mul_comm (2 ^ 8)]
  rw [Nat.or_comm, ← Nat.two_pow_add_eq_or_of_lt (by omega)]

/-- A conditional bit pattern, bit by bit. -/
@[simp] theorem getLsbD_flagIf (on : Bool) (mask : Byte) (i : Nat) : (flagIf on mask).getLsbD i = (on && mask.getLsbD i) := by
  cases on <;> simp [flagIf]

@[simp] theorem getElem_flagIf (on : Bool) (mask : Byte) (i : Nat) (h : i < 8) :
    (flagIf on mask)[i] = (on && mask[i]) := by
  cases on <;> simp [flagIf]

/-- Two bytes are equal when their eight bits are. -/
theorem byte_ext {x y : Byte} (h0 : x[0] = y[0]) (h1 : x[1] = y[1]) (h2 : x[2] = y[2]) (h3 : x[3] = y[3])
    (h4 : x[4] = y[4]) (h5 : x[5] = y[5]) (h6 : x[6] = y[6]) (h7 : x[7] = y[7]) : x = y := by
  apply BitVec.eq_of_getElem_eq
  intro i hi
  have : i = 0 ∨ i = 1 ∨ i = 2 ∨ i = 3 ∨ i = 4 ∨ i = 5 ∨ i = 6 ∨ i = 7 := by omega
  rcases this with h | h | h | h | h | h | h | h <;> subst h <;> assumption

end Sys2Proof
end

