-- ==== Sys2Proof/Laws/State.lean ====
section
/-! SUPPORT. One lemma per field per update, each true by computation: a later proof never unfolds a record update. -/

namespace Sys2Proof.Machine

/-! ### `record` -/

@[simp] theorem State.record_main (s : State) (x : BusAccess) : (s.record x).main = s.main := rfl
@[simp] theorem State.record_shadow (s : State) (x : BusAccess) : (s.record x).shadow = s.shadow := rfl
@[simp] theorem State.record_ix (s : State) (x : BusAccess) : (s.record x).ix = s.ix := rfl
@[simp] theorem State.record_iy (s : State) (x : BusAccess) : (s.record x).iy = s.iy := rfl
@[simp] theorem State.record_sp (s : State) (x : BusAccess) : (s.record x).sp = s.sp := rfl
@[simp] theorem State.record_pc (s : State) (x : BusAccess) : (s.record x).pc = s.pc := rfl
@[simp] theorem State.record_wz (s : State) (x : BusAccess) : (s.record x).wz = s.wz := rfl
@[simp] theorem State.record_i (s : State) (x : BusAccess) : (s.record x).i = s.i := rfl
@[simp] theorem State.record_r (s : State) (x : BusAccess) : (s.record x).r = s.r := rfl
@[simp] theorem State.record_iff1 (s : State) (x : BusAccess) : (s.record x).iff1 = s.iff1 := rfl
@[simp] theorem State.record_iff2 (s : State) (x : BusAccess) : (s.record x).iff2 = s.iff2 := rfl
@[simp] theorem State.record_im (s : State) (x : BusAccess) : (s.record x).im = s.im := rfl
@[simp] theorem State.record_halted (s : State) (x : BusAccess) : (s.record x).halted = s.halted := rfl
@[simp] theorem State.record_intBlocked (s : State) (x : BusAccess) : (s.record x).intBlocked = s.intBlocked := rfl
@[simp] theorem State.record_prefixMode (s : State) (x : BusAccess) : (s.record x).prefixMode = s.prefixMode := rfl
@[simp] theorem State.record_indexMode (s : State) (x : BusAccess) : (s.record x).indexMode = s.indexMode := rfl
@[simp] theorem State.record_resetReq (s : State) (x : BusAccess) : (s.record x).resetReq = s.resetReq := rfl
@[simp] theorem State.record_nmiReq (s : State) (x : BusAccess) : (s.record x).nmiReq = s.nmiReq := rfl
@[simp] theorem State.record_intReq (s : State) (x : BusAccess) : (s.record x).intReq = s.intReq := rfl
@[simp] theorem State.record_clk (s : State) (x : BusAccess) : (s.record x).clk = s.clk := rfl
@[simp] theorem State.record_mem (s : State) (x : BusAccess) : (s.record x).mem = s.mem := rfl
@[simp] theorem State.record_portAnswers (s : State) (x : BusAccess) : (s.record x).portAnswers = s.portAnswers := rfl
@[simp] theorem State.record_portReads (s : State) (x : BusAccess) : (s.record x).portReads = s.portReads := rfl
@[simp] theorem State.record_regions (s : State) (x : BusAccess) : (s.record x).regions = s.regions := rfl
@[simp] theorem State.record_platform (s : State) (x : BusAccess) : (s.record x).platform = s.platform := rfl
@[simp] theorem State.record_bus (s : State) (x : BusAccess) : (s.record x).bus = x :: s.bus := rfl

/-! ### `memRead` -/

@[simp] theorem State.memRead_main (s : State) (a : Word) : (s.memRead a).2.main = s.main := rfl
@[simp] theorem State.memRead_shadow (s : State) (a : Word) : (s.memRead a).2.shadow = s.shadow := rfl
@[simp] theorem State.memRead_ix (s : State) (a : Word) : (s.memRead a).2.ix = s.ix := rfl
@[simp] theorem State.memRead_iy (s : State) (a : Word) : (s.memRead a).2.iy = s.iy := rfl
@[simp] theorem State.memRead_sp (s : State) (a : Word) : (s.memRead a).2.sp = s.sp := rfl
@[simp] theorem State.memRead_pc (s : State) (a : Word) : (s.memRead a).2.pc = s.pc := rfl
@[simp] theorem State.memRead_wz (s : State) (a : Word) : (s.memRead a).2.wz = s.wz := rfl
@[simp] theorem State.memRead_i (s : State) (a : Word) : (s.memRead a).2.i = s.i := rfl
@[simp] theorem State.memRead_r (s : State) (a : Word) : (s.memRead a).2.r = s.r := rfl
@[simp] theorem State.memRead_iff1 (s : State) (a : Word) : (s.memRead a).2.iff1 = s.iff1 := rfl
@[simp] theorem State.memRead_iff2 (s : State) (a : Word) : (s.memRead a).2.iff2 = s.iff2 := rfl
@[simp] theorem State.memRead_im (s : State) (a : Word) : (s.memRead a).2.im = s.im := rfl
@[simp] theorem State.memRead_halted (s : State) (a : Word) : (s.memRead a).2.halted = s.halted := rfl
@[simp] theorem State.memRead_intBlocked (s : State) (a : Word) : (s.memRead a).2.intBlocked = s.intBlocked := rfl
@[simp] theorem State.memRead_prefixMode (s : State) (a : Word) : (s.memRead a).2.prefixMode = s.prefixMode := rfl
@[simp] theorem State.memRead_indexMode (s : State) (a : Word) : (s.memRead a).2.indexMode = s.indexMode := rfl
@[simp] theorem State.memRead_resetReq (s : State) (a : Word) : (s.memRead a).2.resetReq = s.resetReq := rfl
@[simp] theorem State.memRead_nmiReq (s : State) (a : Word) : (s.memRead a).2.nmiReq = s.nmiReq := rfl
@[simp] theorem State.memRead_intReq (s : State) (a : Word) : (s.memRead a).2.intReq = s.intReq := rfl
@[simp] theorem State.memRead_clk (s : State) (a : Word) : (s.memRead a).2.clk = s.clk := rfl
@[simp] theorem State.memRead_mem (s : State) (a : Word) : (s.memRead a).2.mem = s.mem := rfl
@[simp] theorem State.memRead_portAnswers (s : State) (a : Word) : (s.memRead a).2.portAnswers = s.portAnswers := rfl
@[simp] theorem State.memRead_portReads (s : State) (a : Word) : (s.memRead a).2.portReads = s.portReads := rfl
@[simp] theorem State.memRead_regions (s : State) (a : Word) : (s.memRead a).2.regions = s.regions := rfl
@[simp] theorem State.memRead_platform (s : State) (a : Word) : (s.memRead a).2.platform = s.platform := rfl
@[simp] theorem State.memRead_bus (s : State) (a : Word) : (s.memRead a).2.bus = .memRead a (s.peek a) :: s.bus := rfl

/-! ### `memWrite` -/

@[simp] theorem State.memWrite_main (s : State) (a : Word) (v : Byte) : (s.memWrite a v).main = s.main := rfl
@[simp] theorem State.memWrite_shadow (s : State) (a : Word) (v : Byte) : (s.memWrite a v).shadow = s.shadow := rfl
@[simp] theorem State.memWrite_ix (s : State) (a : Word) (v : Byte) : (s.memWrite a v).ix = s.ix := rfl
@[simp] theorem State.memWrite_iy (s : State) (a : Word) (v : Byte) : (s.memWrite a v).iy = s.iy := rfl
@[simp] theorem State.memWrite_sp (s : State) (a : Word) (v : Byte) : (s.memWrite a v).sp = s.sp := rfl
@[simp] theorem State.memWrite_pc (s : State) (a : Word) (v : Byte) : (s.memWrite a v).pc = s.pc := rfl
@[simp] theorem State.memWrite_wz (s : State) (a : Word) (v : Byte) : (s.memWrite a v).wz = s.wz := rfl
@[simp] theorem State.memWrite_i (s : State) (a : Word) (v : Byte) : (s.memWrite a v).i = s.i := rfl
@[simp] theorem State.memWrite_r (s : State) (a : Word) (v : Byte) : (s.memWrite a v).r = s.r := rfl
@[simp] theorem State.memWrite_iff1 (s : State) (a : Word) (v : Byte) : (s.memWrite a v).iff1 = s.iff1 := rfl
@[simp] theorem State.memWrite_iff2 (s : State) (a : Word) (v : Byte) : (s.memWrite a v).iff2 = s.iff2 := rfl
@[simp] theorem State.memWrite_im (s : State) (a : Word) (v : Byte) : (s.memWrite a v).im = s.im := rfl
@[simp] theorem State.memWrite_halted (s : State) (a : Word) (v : Byte) : (s.memWrite a v).halted = s.halted := rfl
@[simp] theorem State.memWrite_intBlocked (s : State) (a : Word) (v : Byte) : (s.memWrite a v).intBlocked = s.intBlocked := rfl
@[simp] theorem State.memWrite_prefixMode (s : State) (a : Word) (v : Byte) : (s.memWrite a v).prefixMode = s.prefixMode := rfl
@[simp] theorem State.memWrite_indexMode (s : State) (a : Word) (v : Byte) : (s.memWrite a v).indexMode = s.indexMode := rfl
@[simp] theorem State.memWrite_resetReq (s : State) (a : Word) (v : Byte) : (s.memWrite a v).resetReq = s.resetReq := rfl
@[simp] theorem State.memWrite_nmiReq (s : State) (a : Word) (v : Byte) : (s.memWrite a v).nmiReq = s.nmiReq := rfl
@[simp] theorem State.memWrite_intReq (s : State) (a : Word) (v : Byte) : (s.memWrite a v).intReq = s.intReq := rfl
@[simp] theorem State.memWrite_clk (s : State) (a : Word) (v : Byte) : (s.memWrite a v).clk = s.clk := rfl
@[simp] theorem State.memWrite_mem (s : State) (a : Word) (v : Byte) : (s.memWrite a v).mem = s.mem.store s.regions a v := rfl
@[simp] theorem State.memWrite_portAnswers (s : State) (a : Word) (v : Byte) : (s.memWrite a v).portAnswers = s.portAnswers := rfl
@[simp] theorem State.memWrite_portReads (s : State) (a : Word) (v : Byte) : (s.memWrite a v).portReads = s.portReads := rfl
@[simp] theorem State.memWrite_regions (s : State) (a : Word) (v : Byte) : (s.memWrite a v).regions = s.regions := rfl
@[simp] theorem State.memWrite_platform (s : State) (a : Word) (v : Byte) : (s.memWrite a v).platform = s.platform := rfl
@[simp] theorem State.memWrite_bus (s : State) (a : Word) (v : Byte) : (s.memWrite a v).bus = .memWrite a v :: s.bus := rfl

/-! ### `portRead` -/

@[simp] theorem State.portRead_main (s : State) (p : Word) : (s.portRead p).2.main = s.main := rfl
@[simp] theorem State.portRead_shadow (s : State) (p : Word) : (s.portRead p).2.shadow = s.shadow := rfl
@[simp] theorem State.portRead_ix (s : State) (p : Word) : (s.portRead p).2.ix = s.ix := rfl
@[simp] theorem State.portRead_iy (s : State) (p : Word) : (s.portRead p).2.iy = s.iy := rfl
@[simp] theorem State.portRead_sp (s : State) (p : Word) : (s.portRead p).2.sp = s.sp := rfl
@[simp] theorem State.portRead_pc (s : State) (p : Word) : (s.portRead p).2.pc = s.pc := rfl
@[simp] theorem State.portRead_wz (s : State) (p : Word) : (s.portRead p).2.wz = s.wz := rfl
@[simp] theorem State.portRead_i (s : State) (p : Word) : (s.portRead p).2.i = s.i := rfl
@[simp] theorem State.portRead_r (s : State) (p : Word) : (s.portRead p).2.r = s.r := rfl
@[simp] theorem State.portRead_iff1 (s : State) (p : Word) : (s.portRead p).2.iff1 = s.iff1 := rfl
@[simp] theorem State.portRead_iff2 (s : State) (p : Word) : (s.portRead p).2.iff2 = s.iff2 := rfl
@[simp] theorem State.portRead_im (s : State) (p : Word) : (s.portRead p).2.im = s.im := rfl
@[simp] theorem State.portRead_halted (s : State) (p : Word) : (s.portRead p).2.halted = s.halted := rfl
@[simp] theorem State.portRead_intBlocked (s : State) (p : Word) : (s.portRead p).2.intBlocked = s.intBlocked := rfl
@[simp] theorem State.portRead_prefixMode (s : State) (p : Word) : (s.portRead p).2.prefixMode = s.prefixMode := rfl
@[simp] theorem State.portRead_indexMode (s : State) (p : Word) : (s.portRead p).2.indexMode = s.indexMode := rfl
@[simp] theorem State.portRead_resetReq (s : State) (p : Word) : (s.portRead p).2.resetReq = s.resetReq := rfl
@[simp] theorem State.portRead_nmiReq (s : State) (p : Word) : (s.portRead p).2.nmiReq = s.nmiReq := rfl
@[simp] theorem State.portRead_intReq (s : State) (p : Word) : (s.portRead p).2.intReq = s.intReq := rfl
@[simp] theorem State.portRead_clk (s : State) (p : Word) : (s.portRead p).2.clk = s.clk := rfl
@[simp] theorem State.portRead_mem (s : State) (p : Word) : (s.portRead p).2.mem = s.mem := rfl
@[simp] theorem State.portRead_portAnswers (s : State) (p : Word) : (s.portRead p).2.portAnswers = s.portAnswers.tail := rfl
@[simp] theorem State.portRead_portReads (s : State) (p : Word) : (s.portRead p).2.portReads = s.portReads + 1 := rfl
@[simp] theorem State.portRead_regions (s : State) (p : Word) : (s.portRead p).2.regions = s.regions := rfl
@[simp] theorem State.portRead_platform (s : State) (p : Word) : (s.portRead p).2.platform = s.platform := rfl
@[simp] theorem State.portRead_bus (s : State) (p : Word) : (s.portRead p).2.bus = .portRead p (s.portAnswer p) :: s.bus := rfl

/-! ### `portWrite` -/

@[simp] theorem State.portWrite_main (s : State) (p : Word) (v : Byte) : (s.portWrite p v).main = s.main := rfl
@[simp] theorem State.portWrite_shadow (s : State) (p : Word) (v : Byte) : (s.portWrite p v).shadow = s.shadow := rfl
@[simp] theorem State.portWrite_ix (s : State) (p : Word) (v : Byte) : (s.portWrite p v).ix = s.ix := rfl
@[simp] theorem State.portWrite_iy (s : State) (p : Word) (v : Byte) : (s.portWrite p v).iy = s.iy := rfl
@[simp] theorem State.portWrite_sp (s : State) (p : Word) (v : Byte) : (s.portWrite p v).sp = s.sp := rfl
@[simp] theorem State.portWrite_pc (s : State) (p : Word) (v : Byte) : (s.portWrite p v).pc = s.pc := rfl
@[simp] theorem State.portWrite_wz (s : State) (p : Word) (v : Byte) : (s.portWrite p v).wz = s.wz := rfl
@[simp] theorem State.portWrite_i (s : State) (p : Word) (v : Byte) : (s.portWrite p v).i = s.i := rfl
@[simp] theorem State.portWrite_r (s : State) (p : Word) (v : Byte) : (s.portWrite p v).r = s.r := rfl
@[simp] theorem State.portWrite_iff1 (s : State) (p : Word) (v : Byte) : (s.portWrite p v).iff1 = s.iff1 := rfl
@[simp] theorem State.portWrite_iff2 (s : State) (p : Word) (v : Byte) : (s.portWrite p v).iff2 = s.iff2 := rfl
@[simp] theorem State.portWrite_im (s : State) (p : Word) (v : Byte) : (s.portWrite p v).im = s.im := rfl
@[simp] theorem State.portWrite_halted (s : State) (p : Word) (v : Byte) : (s.portWrite p v).halted = s.halted := rfl
@[simp] theorem State.portWrite_intBlocked (s : State) (p : Word) (v : Byte) : (s.portWrite p v).intBlocked = s.intBlocked := rfl
@[simp] theorem State.portWrite_prefixMode (s : State) (p : Word) (v : Byte) : (s.portWrite p v).prefixMode = s.prefixMode := rfl
@[simp] theorem State.portWrite_indexMode (s : State) (p : Word) (v : Byte) : (s.portWrite p v).indexMode = s.indexMode := rfl
@[simp] theorem State.portWrite_resetReq (s : State) (p : Word) (v : Byte) : (s.portWrite p v).resetReq = s.resetReq := rfl
@[simp] theorem State.portWrite_nmiReq (s : State) (p : Word) (v : Byte) : (s.portWrite p v).nmiReq = s.nmiReq := rfl
@[simp] theorem State.portWrite_intReq (s : State) (p : Word) (v : Byte) : (s.portWrite p v).intReq = s.intReq := rfl
@[simp] theorem State.portWrite_clk (s : State) (p : Word) (v : Byte) : (s.portWrite p v).clk = s.clk := rfl
@[simp] theorem State.portWrite_mem (s : State) (p : Word) (v : Byte) : (s.portWrite p v).mem = s.mem := rfl
@[simp] theorem State.portWrite_portAnswers (s : State) (p : Word) (v : Byte) : (s.portWrite p v).portAnswers = s.portAnswers := rfl
@[simp] theorem State.portWrite_portReads (s : State) (p : Word) (v : Byte) : (s.portWrite p v).portReads = s.portReads := rfl
@[simp] theorem State.portWrite_regions (s : State) (p : Word) (v : Byte) : (s.portWrite p v).regions = s.regions := rfl
@[simp] theorem State.portWrite_platform (s : State) (p : Word) (v : Byte) : (s.portWrite p v).platform = s.platform := rfl
@[simp] theorem State.portWrite_bus (s : State) (p : Word) (v : Byte) : (s.portWrite p v).bus = .portWrite p v :: s.bus := rfl

/-! ### `fetch8` -/

@[simp] theorem State.fetch8_main (s : State) : s.fetch8.2.main = s.main := rfl
@[simp] theorem State.fetch8_shadow (s : State) : s.fetch8.2.shadow = s.shadow := rfl
@[simp] theorem State.fetch8_ix (s : State) : s.fetch8.2.ix = s.ix := rfl
@[simp] theorem State.fetch8_iy (s : State) : s.fetch8.2.iy = s.iy := rfl
@[simp] theorem State.fetch8_sp (s : State) : s.fetch8.2.sp = s.sp := rfl
@[simp] theorem State.fetch8_pc (s : State) : s.fetch8.2.pc = s.pc + 1 := rfl
@[simp] theorem State.fetch8_wz (s : State) : s.fetch8.2.wz = s.wz := rfl
@[simp] theorem State.fetch8_i (s : State) : s.fetch8.2.i = s.i := rfl
@[simp] theorem State.fetch8_r (s : State) : s.fetch8.2.r = s.r := rfl
@[simp] theorem State.fetch8_iff1 (s : State) : s.fetch8.2.iff1 = s.iff1 := rfl
@[simp] theorem State.fetch8_iff2 (s : State) : s.fetch8.2.iff2 = s.iff2 := rfl
@[simp] theorem State.fetch8_im (s : State) : s.fetch8.2.im = s.im := rfl
@[simp] theorem State.fetch8_halted (s : State) : s.fetch8.2.halted = s.halted := rfl
@[simp] theorem State.fetch8_intBlocked (s : State) : s.fetch8.2.intBlocked = s.intBlocked := rfl
@[simp] theorem State.fetch8_prefixMode (s : State) : s.fetch8.2.prefixMode = s.prefixMode := rfl
@[simp] theorem State.fetch8_indexMode (s : State) : s.fetch8.2.indexMode = s.indexMode := rfl
@[simp] theorem State.fetch8_resetReq (s : State) : s.fetch8.2.resetReq = s.resetReq := rfl
@[simp] theorem State.fetch8_nmiReq (s : State) : s.fetch8.2.nmiReq = s.nmiReq := rfl
@[simp] theorem State.fetch8_intReq (s : State) : s.fetch8.2.intReq = s.intReq := rfl
@[simp] theorem State.fetch8_clk (s : State) : s.fetch8.2.clk = s.clk := rfl
@[simp] theorem State.fetch8_mem (s : State) : s.fetch8.2.mem = s.mem := rfl
@[simp] theorem State.fetch8_portAnswers (s : State) : s.fetch8.2.portAnswers = s.portAnswers := rfl
@[simp] theorem State.fetch8_portReads (s : State) : s.fetch8.2.portReads = s.portReads := rfl
@[simp] theorem State.fetch8_regions (s : State) : s.fetch8.2.regions = s.regions := rfl
@[simp] theorem State.fetch8_platform (s : State) : s.fetch8.2.platform = s.platform := rfl
@[simp] theorem State.fetch8_bus (s : State) : s.fetch8.2.bus = .memRead s.pc (s.peek s.pc) :: s.bus := rfl

/-! ### `fetchOp` -/

@[simp] theorem State.fetchOp_main (s : State) : s.fetchOp.2.main = s.main := rfl
@[simp] theorem State.fetchOp_shadow (s : State) : s.fetchOp.2.shadow = s.shadow := rfl
@[simp] theorem State.fetchOp_ix (s : State) : s.fetchOp.2.ix = s.ix := rfl
@[simp] theorem State.fetchOp_iy (s : State) : s.fetchOp.2.iy = s.iy := rfl
@[simp] theorem State.fetchOp_sp (s : State) : s.fetchOp.2.sp = s.sp := rfl
@[simp] theorem State.fetchOp_pc (s : State) : s.fetchOp.2.pc = s.pc + 1 := rfl
@[simp] theorem State.fetchOp_wz (s : State) : s.fetchOp.2.wz = s.wz := rfl
@[simp] theorem State.fetchOp_i (s : State) : s.fetchOp.2.i = s.i := rfl
@[simp] theorem State.fetchOp_r (s : State) : s.fetchOp.2.r = incR s.r := rfl
@[simp] theorem State.fetchOp_iff1 (s : State) : s.fetchOp.2.iff1 = s.iff1 := rfl
@[simp] theorem State.fetchOp_iff2 (s : State) : s.fetchOp.2.iff2 = s.iff2 := rfl
@[simp] theorem State.fetchOp_im (s : State) : s.fetchOp.2.im = s.im := rfl
@[simp] theorem State.fetchOp_halted (s : State) : s.fetchOp.2.halted = s.halted := rfl
@[simp] theorem State.fetchOp_intBlocked (s : State) : s.fetchOp.2.intBlocked = s.intBlocked := rfl
@[simp] theorem State.fetchOp_prefixMode (s : State) : s.fetchOp.2.prefixMode = s.prefixMode := rfl
@[simp] theorem State.fetchOp_indexMode (s : State) : s.fetchOp.2.indexMode = s.indexMode := rfl
@[simp] theorem State.fetchOp_resetReq (s : State) : s.fetchOp.2.resetReq = s.resetReq := rfl
@[simp] theorem State.fetchOp_nmiReq (s : State) : s.fetchOp.2.nmiReq = s.nmiReq := rfl
@[simp] theorem State.fetchOp_intReq (s : State) : s.fetchOp.2.intReq = s.intReq := rfl
@[simp] theorem State.fetchOp_clk (s : State) : s.fetchOp.2.clk = s.clk + Config.tFetch := rfl
@[simp] theorem State.fetchOp_mem (s : State) : s.fetchOp.2.mem = s.mem := rfl
@[simp] theorem State.fetchOp_portAnswers (s : State) : s.fetchOp.2.portAnswers = s.portAnswers := rfl
@[simp] theorem State.fetchOp_portReads (s : State) : s.fetchOp.2.portReads = s.portReads := rfl
@[simp] theorem State.fetchOp_regions (s : State) : s.fetchOp.2.regions = s.regions := rfl
@[simp] theorem State.fetchOp_platform (s : State) : s.fetchOp.2.platform = s.platform := rfl
@[simp] theorem State.fetchOp_bus (s : State) : s.fetchOp.2.bus = .memRead s.pc (s.peek s.pc) :: s.bus := rfl

/-! ### `setReg` -/

@[simp] theorem State.setReg_shadow (s : State) (r : Reg8) (v : Byte) : (s.setReg r v).shadow = s.shadow := by cases r <;> rfl
@[simp] theorem State.setReg_ix (s : State) (r : Reg8) (v : Byte) : (s.setReg r v).ix = s.ix := by cases r <;> rfl
@[simp] theorem State.setReg_iy (s : State) (r : Reg8) (v : Byte) : (s.setReg r v).iy = s.iy := by cases r <;> rfl
@[simp] theorem State.setReg_sp (s : State) (r : Reg8) (v : Byte) : (s.setReg r v).sp = s.sp := by cases r <;> rfl
@[simp] theorem State.setReg_pc (s : State) (r : Reg8) (v : Byte) : (s.setReg r v).pc = s.pc := by cases r <;> rfl
@[simp] theorem State.setReg_wz (s : State) (r : Reg8) (v : Byte) : (s.setReg r v).wz = s.wz := by cases r <;> rfl
@[simp] theorem State.setReg_i (s : State) (r : Reg8) (v : Byte) : (s.setReg r v).i = s.i := by cases r <;> rfl
@[simp] theorem State.setReg_r (s : State) (r : Reg8) (v : Byte) : (s.setReg r v).r = s.r := by cases r <;> rfl
@[simp] theorem State.setReg_iff1 (s : State) (r : Reg8) (v : Byte) : (s.setReg r v).iff1 = s.iff1 := by cases r <;> rfl
@[simp] theorem State.setReg_iff2 (s : State) (r : Reg8) (v : Byte) : (s.setReg r v).iff2 = s.iff2 := by cases r <;> rfl
@[simp] theorem State.setReg_im (s : State) (r : Reg8) (v : Byte) : (s.setReg r v).im = s.im := by cases r <;> rfl
@[simp] theorem State.setReg_halted (s : State) (r : Reg8) (v : Byte) : (s.setReg r v).halted = s.halted := by cases r <;> rfl
@[simp] theorem State.setReg_intBlocked (s : State) (r : Reg8) (v : Byte) : (s.setReg r v).intBlocked = s.intBlocked := by cases r <;> rfl
@[simp] theorem State.setReg_prefixMode (s : State) (r : Reg8) (v : Byte) : (s.setReg r v).prefixMode = s.prefixMode := by cases r <;> rfl
@[simp] theorem State.setReg_indexMode (s : State) (r : Reg8) (v : Byte) : (s.setReg r v).indexMode = s.indexMode := by cases r <;> rfl
@[simp] theorem State.setReg_resetReq (s : State) (r : Reg8) (v : Byte) : (s.setReg r v).resetReq = s.resetReq := by cases r <;> rfl
@[simp] theorem State.setReg_nmiReq (s : State) (r : Reg8) (v : Byte) : (s.setReg r v).nmiReq = s.nmiReq := by cases r <;> rfl
@[simp] theorem State.setReg_intReq (s : State) (r : Reg8) (v : Byte) : (s.setReg r v).intReq = s.intReq := by cases r <;> rfl
@[simp] theorem State.setReg_clk (s : State) (r : Reg8) (v : Byte) : (s.setReg r v).clk = s.clk := by cases r <;> rfl
@[simp] theorem State.setReg_mem (s : State) (r : Reg8) (v : Byte) : (s.setReg r v).mem = s.mem := by cases r <;> rfl
@[simp] theorem State.setReg_portAnswers (s : State) (r : Reg8) (v : Byte) : (s.setReg r v).portAnswers = s.portAnswers := by cases r <;> rfl
@[simp] theorem State.setReg_portReads (s : State) (r : Reg8) (v : Byte) : (s.setReg r v).portReads = s.portReads := by cases r <;> rfl
@[simp] theorem State.setReg_regions (s : State) (r : Reg8) (v : Byte) : (s.setReg r v).regions = s.regions := by cases r <;> rfl
@[simp] theorem State.setReg_platform (s : State) (r : Reg8) (v : Byte) : (s.setReg r v).platform = s.platform := by cases r <;> rfl
@[simp] theorem State.setReg_bus (s : State) (r : Reg8) (v : Byte) : (s.setReg r v).bus = s.bus := by cases r <;> rfl

/-! ### `setF` -/

@[simp] theorem State.setF_main (s : State) (v : Byte) : (s.setF v).main = { s.main with f := v } := rfl
@[simp] theorem State.setF_shadow (s : State) (v : Byte) : (s.setF v).shadow = s.shadow := rfl
@[simp] theorem State.setF_ix (s : State) (v : Byte) : (s.setF v).ix = s.ix := rfl
@[simp] theorem State.setF_iy (s : State) (v : Byte) : (s.setF v).iy = s.iy := rfl
@[simp] theorem State.setF_sp (s : State) (v : Byte) : (s.setF v).sp = s.sp := rfl
@[simp] theorem State.setF_pc (s : State) (v : Byte) : (s.setF v).pc = s.pc := rfl
@[simp] theorem State.setF_wz (s : State) (v : Byte) : (s.setF v).wz = s.wz := rfl
@[simp] theorem State.setF_i (s : State) (v : Byte) : (s.setF v).i = s.i := rfl
@[simp] theorem State.setF_r (s : State) (v : Byte) : (s.setF v).r = s.r := rfl
@[simp] theorem State.setF_iff1 (s : State) (v : Byte) : (s.setF v).iff1 = s.iff1 := rfl
@[simp] theorem State.setF_iff2 (s : State) (v : Byte) : (s.setF v).iff2 = s.iff2 := rfl
@[simp] theorem State.setF_im (s : State) (v : Byte) : (s.setF v).im = s.im := rfl
@[simp] theorem State.setF_halted (s : State) (v : Byte) : (s.setF v).halted = s.halted := rfl
@[simp] theorem State.setF_intBlocked (s : State) (v : Byte) : (s.setF v).intBlocked = s.intBlocked := rfl
@[simp] theorem State.setF_prefixMode (s : State) (v : Byte) : (s.setF v).prefixMode = s.prefixMode := rfl
@[simp] theorem State.setF_indexMode (s : State) (v : Byte) : (s.setF v).indexMode = s.indexMode := rfl
@[simp] theorem State.setF_resetReq (s : State) (v : Byte) : (s.setF v).resetReq = s.resetReq := rfl
@[simp] theorem State.setF_nmiReq (s : State) (v : Byte) : (s.setF v).nmiReq = s.nmiReq := rfl
@[simp] theorem State.setF_intReq (s : State) (v : Byte) : (s.setF v).intReq = s.intReq := rfl
@[simp] theorem State.setF_clk (s : State) (v : Byte) : (s.setF v).clk = s.clk := rfl
@[simp] theorem State.setF_mem (s : State) (v : Byte) : (s.setF v).mem = s.mem := rfl
@[simp] theorem State.setF_portAnswers (s : State) (v : Byte) : (s.setF v).portAnswers = s.portAnswers := rfl
@[simp] theorem State.setF_portReads (s : State) (v : Byte) : (s.setF v).portReads = s.portReads := rfl
@[simp] theorem State.setF_regions (s : State) (v : Byte) : (s.setF v).regions = s.regions := rfl
@[simp] theorem State.setF_platform (s : State) (v : Byte) : (s.setF v).platform = s.platform := rfl
@[simp] theorem State.setF_bus (s : State) (v : Byte) : (s.setF v).bus = s.bus := rfl

/-! ### `setAF` -/

@[simp] theorem State.setAF_main (s : State) (v : Byte × Byte) : (s.setAF v).main = { s.main with a := v.1, f := v.2 } := rfl
@[simp] theorem State.setAF_shadow (s : State) (v : Byte × Byte) : (s.setAF v).shadow = s.shadow := rfl
@[simp] theorem State.setAF_ix (s : State) (v : Byte × Byte) : (s.setAF v).ix = s.ix := rfl
@[simp] theorem State.setAF_iy (s : State) (v : Byte × Byte) : (s.setAF v).iy = s.iy := rfl
@[simp] theorem State.setAF_sp (s : State) (v : Byte × Byte) : (s.setAF v).sp = s.sp := rfl
@[simp] theorem State.setAF_pc (s : State) (v : Byte × Byte) : (s.setAF v).pc = s.pc := rfl
@[simp] theorem State.setAF_wz (s : State) (v : Byte × Byte) : (s.setAF v).wz = s.wz := rfl
@[simp] theorem State.setAF_i (s : State) (v : Byte × Byte) : (s.setAF v).i = s.i := rfl
@[simp] theorem State.setAF_r (s : State) (v : Byte × Byte) : (s.setAF v).r = s.r := rfl
@[simp] theorem State.setAF_iff1 (s : State) (v : Byte × Byte) : (s.setAF v).iff1 = s.iff1 := rfl
@[simp] theorem State.setAF_iff2 (s : State) (v : Byte × Byte) : (s.setAF v).iff2 = s.iff2 := rfl
@[simp] theorem State.setAF_im (s : State) (v : Byte × Byte) : (s.setAF v).im = s.im := rfl
@[simp] theorem State.setAF_halted (s : State) (v : Byte × Byte) : (s.setAF v).halted = s.halted := rfl
@[simp] theorem State.setAF_intBlocked (s : State) (v : Byte × Byte) : (s.setAF v).intBlocked = s.intBlocked := rfl
@[simp] theorem State.setAF_prefixMode (s : State) (v : Byte × Byte) : (s.setAF v).prefixMode = s.prefixMode := rfl
@[simp] theorem State.setAF_indexMode (s : State) (v : Byte × Byte) : (s.setAF v).indexMode = s.indexMode := rfl
@[simp] theorem State.setAF_resetReq (s : State) (v : Byte × Byte) : (s.setAF v).resetReq = s.resetReq := rfl
@[simp] theorem State.setAF_nmiReq (s : State) (v : Byte × Byte) : (s.setAF v).nmiReq = s.nmiReq := rfl
@[simp] theorem State.setAF_intReq (s : State) (v : Byte × Byte) : (s.setAF v).intReq = s.intReq := rfl
@[simp] theorem State.setAF_clk (s : State) (v : Byte × Byte) : (s.setAF v).clk = s.clk := rfl
@[simp] theorem State.setAF_mem (s : State) (v : Byte × Byte) : (s.setAF v).mem = s.mem := rfl
@[simp] theorem State.setAF_portAnswers (s : State) (v : Byte × Byte) : (s.setAF v).portAnswers = s.portAnswers := rfl
@[simp] theorem State.setAF_portReads (s : State) (v : Byte × Byte) : (s.setAF v).portReads = s.portReads := rfl
@[simp] theorem State.setAF_regions (s : State) (v : Byte × Byte) : (s.setAF v).regions = s.regions := rfl
@[simp] theorem State.setAF_platform (s : State) (v : Byte × Byte) : (s.setAF v).platform = s.platform := rfl
@[simp] theorem State.setAF_bus (s : State) (v : Byte × Byte) : (s.setAF v).bus = s.bus := rfl

/-! ### `setBc` -/

@[simp] theorem State.setBc_main (s : State) (v : Word) : (s.setBc v).main = { s.main with b := hi v, c := lo v } := rfl
@[simp] theorem State.setBc_shadow (s : State) (v : Word) : (s.setBc v).shadow = s.shadow := rfl
@[simp] theorem State.setBc_ix (s : State) (v : Word) : (s.setBc v).ix = s.ix := rfl
@[simp] theorem State.setBc_iy (s : State) (v : Word) : (s.setBc v).iy = s.iy := rfl
@[simp] theorem State.setBc_sp (s : State) (v : Word) : (s.setBc v).sp = s.sp := rfl
@[simp] theorem State.setBc_pc (s : State) (v : Word) : (s.setBc v).pc = s.pc := rfl
@[simp] theorem State.setBc_wz (s : State) (v : Word) : (s.setBc v).wz = s.wz := rfl
@[simp] theorem State.setBc_i (s : State) (v : Word) : (s.setBc v).i = s.i := rfl
@[simp] theorem State.setBc_r (s : State) (v : Word) : (s.setBc v).r = s.r := rfl
@[simp] theorem State.setBc_iff1 (s : State) (v : Word) : (s.setBc v).iff1 = s.iff1 := rfl
@[simp] theorem State.setBc_iff2 (s : State) (v : Word) : (s.setBc v).iff2 = s.iff2 := rfl
@[simp] theorem State.setBc_im (s : State) (v : Word) : (s.setBc v).im = s.im := rfl
@[simp] theorem State.setBc_halted (s : State) (v : Word) : (s.setBc v).halted = s.halted := rfl
@[simp] theorem State.setBc_intBlocked (s : State) (v : Word) : (s.setBc v).intBlocked = s.intBlocked := rfl
@[simp] theorem State.setBc_prefixMode (s : State) (v : Word) : (s.setBc v).prefixMode = s.prefixMode := rfl
@[simp] theorem State.setBc_indexMode (s : State) (v : Word) : (s.setBc v).indexMode = s.indexMode := rfl
@[simp] theorem State.setBc_resetReq (s : State) (v : Word) : (s.setBc v).resetReq = s.resetReq := rfl
@[simp] theorem State.setBc_nmiReq (s : State) (v : Word) : (s.setBc v).nmiReq = s.nmiReq := rfl
@[simp] theorem State.setBc_intReq (s : State) (v : Word) : (s.setBc v).intReq = s.intReq := rfl
@[simp] theorem State.setBc_clk (s : State) (v : Word) : (s.setBc v).clk = s.clk := rfl
@[simp] theorem State.setBc_mem (s : State) (v : Word) : (s.setBc v).mem = s.mem := rfl
@[simp] theorem State.setBc_portAnswers (s : State) (v : Word) : (s.setBc v).portAnswers = s.portAnswers := rfl
@[simp] theorem State.setBc_portReads (s : State) (v : Word) : (s.setBc v).portReads = s.portReads := rfl
@[simp] theorem State.setBc_regions (s : State) (v : Word) : (s.setBc v).regions = s.regions := rfl
@[simp] theorem State.setBc_platform (s : State) (v : Word) : (s.setBc v).platform = s.platform := rfl
@[simp] theorem State.setBc_bus (s : State) (v : Word) : (s.setBc v).bus = s.bus := rfl

/-! ### `setDe` -/

@[simp] theorem State.setDe_main (s : State) (v : Word) : (s.setDe v).main = { s.main with d := hi v, e := lo v } := rfl
@[simp] theorem State.setDe_shadow (s : State) (v : Word) : (s.setDe v).shadow = s.shadow := rfl
@[simp] theorem State.setDe_ix (s : State) (v : Word) : (s.setDe v).ix = s.ix := rfl
@[simp] theorem State.setDe_iy (s : State) (v : Word) : (s.setDe v).iy = s.iy := rfl
@[simp] theorem State.setDe_sp (s : State) (v : Word) : (s.setDe v).sp = s.sp := rfl
@[simp] theorem State.setDe_pc (s : State) (v : Word) : (s.setDe v).pc = s.pc := rfl
@[simp] theorem State.setDe_wz (s : State) (v : Word) : (s.setDe v).wz = s.wz := rfl
@[simp] theorem State.setDe_i (s : State) (v : Word) : (s.setDe v).i = s.i := rfl
@[simp] theorem State.setDe_r (s : State) (v : Word) : (s.setDe v).r = s.r := rfl
@[simp] theorem State.setDe_iff1 (s : State) (v : Word) : (s.setDe v).iff1 = s.iff1 := rfl
@[simp] theorem State.setDe_iff2 (s : State) (v : Word) : (s.setDe v).iff2 = s.iff2 := rfl
@[simp] theorem State.setDe_im (s : State) (v : Word) : (s.setDe v).im = s.im := rfl
@[simp] theorem State.setDe_halted (s : State) (v : Word) : (s.setDe v).halted = s.halted := rfl
@[simp] theorem State.setDe_intBlocked (s : State) (v : Word) : (s.setDe v).intBlocked = s.intBlocked := rfl
@[simp] theorem State.setDe_prefixMode (s : State) (v : Word) : (s.setDe v).prefixMode = s.prefixMode := rfl
@[simp] theorem State.setDe_indexMode (s : State) (v : Word) : (s.setDe v).indexMode = s.indexMode := rfl
@[simp] theorem State.setDe_resetReq (s : State) (v : Word) : (s.setDe v).resetReq = s.resetReq := rfl
@[simp] theorem State.setDe_nmiReq (s : State) (v : Word) : (s.setDe v).nmiReq = s.nmiReq := rfl
@[simp] theorem State.setDe_intReq (s : State) (v : Word) : (s.setDe v).intReq = s.intReq := rfl
@[simp] theorem State.setDe_clk (s : State) (v : Word) : (s.setDe v).clk = s.clk := rfl
@[simp] theorem State.setDe_mem (s : State) (v : Word) : (s.setDe v).mem = s.mem := rfl
@[simp] theorem State.setDe_portAnswers (s : State) (v : Word) : (s.setDe v).portAnswers = s.portAnswers := rfl
@[simp] theorem State.setDe_portReads (s : State) (v : Word) : (s.setDe v).portReads = s.portReads := rfl
@[simp] theorem State.setDe_regions (s : State) (v : Word) : (s.setDe v).regions = s.regions := rfl
@[simp] theorem State.setDe_platform (s : State) (v : Word) : (s.setDe v).platform = s.platform := rfl
@[simp] theorem State.setDe_bus (s : State) (v : Word) : (s.setDe v).bus = s.bus := rfl

/-! ### `setHl` -/

@[simp] theorem State.setHl_main (s : State) (v : Word) : (s.setHl v).main = { s.main with h := hi v, l := lo v } := rfl
@[simp] theorem State.setHl_shadow (s : State) (v : Word) : (s.setHl v).shadow = s.shadow := rfl
@[simp] theorem State.setHl_ix (s : State) (v : Word) : (s.setHl v).ix = s.ix := rfl
@[simp] theorem State.setHl_iy (s : State) (v : Word) : (s.setHl v).iy = s.iy := rfl
@[simp] theorem State.setHl_sp (s : State) (v : Word) : (s.setHl v).sp = s.sp := rfl
@[simp] theorem State.setHl_pc (s : State) (v : Word) : (s.setHl v).pc = s.pc := rfl
@[simp] theorem State.setHl_wz (s : State) (v : Word) : (s.setHl v).wz = s.wz := rfl
@[simp] theorem State.setHl_i (s : State) (v : Word) : (s.setHl v).i = s.i := rfl
@[simp] theorem State.setHl_r (s : State) (v : Word) : (s.setHl v).r = s.r := rfl
@[simp] theorem State.setHl_iff1 (s : State) (v : Word) : (s.setHl v).iff1 = s.iff1 := rfl
@[simp] theorem State.setHl_iff2 (s : State) (v : Word) : (s.setHl v).iff2 = s.iff2 := rfl
@[simp] theorem State.setHl_im (s : State) (v : Word) : (s.setHl v).im = s.im := rfl
@[simp] theorem State.setHl_halted (s : State) (v : Word) : (s.setHl v).halted = s.halted := rfl
@[simp] theorem State.setHl_intBlocked (s : State) (v : Word) : (s.setHl v).intBlocked = s.intBlocked := rfl
@[simp] theorem State.setHl_prefixMode (s : State) (v : Word) : (s.setHl v).prefixMode = s.prefixMode := rfl
@[simp] theorem State.setHl_indexMode (s : State) (v : Word) : (s.setHl v).indexMode = s.indexMode := rfl
@[simp] theorem State.setHl_resetReq (s : State) (v : Word) : (s.setHl v).resetReq = s.resetReq := rfl
@[simp] theorem State.setHl_nmiReq (s : State) (v : Word) : (s.setHl v).nmiReq = s.nmiReq := rfl
@[simp] theorem State.setHl_intReq (s : State) (v : Word) : (s.setHl v).intReq = s.intReq := rfl
@[simp] theorem State.setHl_clk (s : State) (v : Word) : (s.setHl v).clk = s.clk := rfl
@[simp] theorem State.setHl_mem (s : State) (v : Word) : (s.setHl v).mem = s.mem := rfl
@[simp] theorem State.setHl_portAnswers (s : State) (v : Word) : (s.setHl v).portAnswers = s.portAnswers := rfl
@[simp] theorem State.setHl_portReads (s : State) (v : Word) : (s.setHl v).portReads = s.portReads := rfl
@[simp] theorem State.setHl_regions (s : State) (v : Word) : (s.setHl v).regions = s.regions := rfl
@[simp] theorem State.setHl_platform (s : State) (v : Word) : (s.setHl v).platform = s.platform := rfl
@[simp] theorem State.setHl_bus (s : State) (v : Word) : (s.setHl v).bus = s.bus := rfl

/-! ### `setPair` -/

@[simp] theorem State.setPair_shadow (s : State) (dd : Pair) (v : Word) : (s.setPair dd v).shadow = s.shadow := by cases dd <;> rfl
@[simp] theorem State.setPair_ix (s : State) (dd : Pair) (v : Word) : (s.setPair dd v).ix = s.ix := by cases dd <;> rfl
@[simp] theorem State.setPair_iy (s : State) (dd : Pair) (v : Word) : (s.setPair dd v).iy = s.iy := by cases dd <;> rfl
@[simp] theorem State.setPair_pc (s : State) (dd : Pair) (v : Word) : (s.setPair dd v).pc = s.pc := by cases dd <;> rfl
@[simp] theorem State.setPair_wz (s : State) (dd : Pair) (v : Word) : (s.setPair dd v).wz = s.wz := by cases dd <;> rfl
@[simp] theorem State.setPair_i (s : State) (dd : Pair) (v : Word) : (s.setPair dd v).i = s.i := by cases dd <;> rfl
@[simp] theorem State.setPair_r (s : State) (dd : Pair) (v : Word) : (s.setPair dd v).r = s.r := by cases dd <;> rfl
@[simp] theorem State.setPair_iff1 (s : State) (dd : Pair) (v : Word) : (s.setPair dd v).iff1 = s.iff1 := by cases dd <;> rfl
@[simp] theorem State.setPair_iff2 (s : State) (dd : Pair) (v : Word) : (s.setPair dd v).iff2 = s.iff2 := by cases dd <;> rfl
@[simp] theorem State.setPair_im (s : State) (dd : Pair) (v : Word) : (s.setPair dd v).im = s.im := by cases dd <;> rfl
@[simp] theorem State.setPair_halted (s : State) (dd : Pair) (v : Word) : (s.setPair dd v).halted = s.halted := by cases dd <;> rfl
@[simp] theorem State.setPair_intBlocked (s : State) (dd : Pair) (v : Word) : (s.setPair dd v).intBlocked = s.intBlocked := by cases dd <;> rfl
@[simp] theorem State.setPair_prefixMode (s : State) (dd : Pair) (v : Word) : (s.setPair dd v).prefixMode = s.prefixMode := by cases dd <;> rfl
@[simp] theorem State.setPair_indexMode (s : State) (dd : Pair) (v : Word) : (s.setPair dd v).indexMode = s.indexMode := by cases dd <;> rfl
@[simp] theorem State.setPair_resetReq (s : State) (dd : Pair) (v : Word) : (s.setPair dd v).resetReq = s.resetReq := by cases dd <;> rfl
@[simp] theorem State.setPair_nmiReq (s : State) (dd : Pair) (v : Word) : (s.setPair dd v).nmiReq = s.nmiReq := by cases dd <;> rfl
@[simp] theorem State.setPair_intReq (s : State) (dd : Pair) (v : Word) : (s.setPair dd v).intReq = s.intReq := by cases dd <;> rfl
@[simp] theorem State.setPair_clk (s : State) (dd : Pair) (v : Word) : (s.setPair dd v).clk = s.clk := by cases dd <;> rfl
@[simp] theorem State.setPair_mem (s : State) (dd : Pair) (v : Word) : (s.setPair dd v).mem = s.mem := by cases dd <;> rfl
@[simp] theorem State.setPair_portAnswers (s : State) (dd : Pair) (v : Word) : (s.setPair dd v).portAnswers = s.portAnswers := by cases dd <;> rfl
@[simp] theorem State.setPair_portReads (s : State) (dd : Pair) (v : Word) : (s.setPair dd v).portReads = s.portReads := by cases dd <;> rfl
@[simp] theorem State.setPair_regions (s : State) (dd : Pair) (v : Word) : (s.setPair dd v).regions = s.regions := by cases dd <;> rfl
@[simp] theorem State.setPair_platform (s : State) (dd : Pair) (v : Word) : (s.setPair dd v).platform = s.platform := by cases dd <;> rfl
@[simp] theorem State.setPair_bus (s : State) (dd : Pair) (v : Word) : (s.setPair dd v).bus = s.bus := by cases dd <;> rfl

/-! ### `setStackPair` -/

@[simp] theorem State.setStackPair_shadow (s : State) (qq : StackPair) (v : Word) : (s.setStackPair qq v).shadow = s.shadow := by cases qq <;> rfl
@[simp] theorem State.setStackPair_ix (s : State) (qq : StackPair) (v : Word) : (s.setStackPair qq v).ix = s.ix := by cases qq <;> rfl
@[simp] theorem State.setStackPair_iy (s : State) (qq : StackPair) (v : Word) : (s.setStackPair qq v).iy = s.iy := by cases qq <;> rfl
@[simp] theorem State.setStackPair_sp (s : State) (qq : StackPair) (v : Word) : (s.setStackPair qq v).sp = s.sp := by cases qq <;> rfl
@[simp] theorem State.setStackPair_pc (s : State) (qq : StackPair) (v : Word) : (s.setStackPair qq v).pc = s.pc := by cases qq <;> rfl
@[simp] theorem State.setStackPair_wz (s : State) (qq : StackPair) (v : Word) : (s.setStackPair qq v).wz = s.wz := by cases qq <;> rfl
@[simp] theorem State.setStackPair_i (s : State) (qq : StackPair) (v : Word) : (s.setStackPair qq v).i = s.i := by cases qq <;> rfl
@[simp] theorem State.setStackPair_r (s : State) (qq : StackPair) (v : Word) : (s.setStackPair qq v).r = s.r := by cases qq <;> rfl
@[simp] theorem State.setStackPair_iff1 (s : State) (qq : StackPair) (v : Word) : (s.setStackPair qq v).iff1 = s.iff1 := by cases qq <;> rfl
@[simp] theorem State.setStackPair_iff2 (s : State) (qq : StackPair) (v : Word) : (s.setStackPair qq v).iff2 = s.iff2 := by cases qq <;> rfl
@[simp] theorem State.setStackPair_im (s : State) (qq : StackPair) (v : Word) : (s.setStackPair qq v).im = s.im := by cases qq <;> rfl
@[simp] theorem State.setStackPair_halted (s : State) (qq : StackPair) (v : Word) : (s.setStackPair qq v).halted = s.halted := by cases qq <;> rfl
@[simp] theorem State.setStackPair_intBlocked (s : State) (qq : StackPair) (v : Word) : (s.setStackPair qq v).intBlocked = s.intBlocked := by cases qq <;> rfl
@[simp] theorem State.setStackPair_prefixMode (s : State) (qq : StackPair) (v : Word) : (s.setStackPair qq v).prefixMode = s.prefixMode := by cases qq <;> rfl
@[simp] theorem State.setStackPair_indexMode (s : State) (qq : StackPair) (v : Word) : (s.setStackPair qq v).indexMode = s.indexMode := by cases qq <;> rfl
@[simp] theorem State.setStackPair_resetReq (s : State) (qq : StackPair) (v : Word) : (s.setStackPair qq v).resetReq = s.resetReq := by cases qq <;> rfl
@[simp] theorem State.setStackPair_nmiReq (s : State) (qq : StackPair) (v : Word) : (s.setStackPair qq v).nmiReq = s.nmiReq := by cases qq <;> rfl
@[simp] theorem State.setStackPair_intReq (s : State) (qq : StackPair) (v : Word) : (s.setStackPair qq v).intReq = s.intReq := by cases qq <;> rfl
@[simp] theorem State.setStackPair_clk (s : State) (qq : StackPair) (v : Word) : (s.setStackPair qq v).clk = s.clk := by cases qq <;> rfl
@[simp] theorem State.setStackPair_mem (s : State) (qq : StackPair) (v : Word) : (s.setStackPair qq v).mem = s.mem := by cases qq <;> rfl
@[simp] theorem State.setStackPair_portAnswers (s : State) (qq : StackPair) (v : Word) : (s.setStackPair qq v).portAnswers = s.portAnswers := by cases qq <;> rfl
@[simp] theorem State.setStackPair_portReads (s : State) (qq : StackPair) (v : Word) : (s.setStackPair qq v).portReads = s.portReads := by cases qq <;> rfl
@[simp] theorem State.setStackPair_regions (s : State) (qq : StackPair) (v : Word) : (s.setStackPair qq v).regions = s.regions := by cases qq <;> rfl
@[simp] theorem State.setStackPair_platform (s : State) (qq : StackPair) (v : Word) : (s.setStackPair qq v).platform = s.platform := by cases qq <;> rfl
@[simp] theorem State.setStackPair_bus (s : State) (qq : StackPair) (v : Word) : (s.setStackPair qq v).bus = s.bus := by cases qq <;> rfl

/-! ### `setXy` -/

@[simp] theorem State.setXy_main (s : State) (xy : IndexReg) (v : Word) : (s.setXy xy v).main = s.main := by cases xy <;> rfl
@[simp] theorem State.setXy_shadow (s : State) (xy : IndexReg) (v : Word) : (s.setXy xy v).shadow = s.shadow := by cases xy <;> rfl
@[simp] theorem State.setXy_sp (s : State) (xy : IndexReg) (v : Word) : (s.setXy xy v).sp = s.sp := by cases xy <;> rfl
@[simp] theorem State.setXy_pc (s : State) (xy : IndexReg) (v : Word) : (s.setXy xy v).pc = s.pc := by cases xy <;> rfl
@[simp] theorem State.setXy_wz (s : State) (xy : IndexReg) (v : Word) : (s.setXy xy v).wz = s.wz := by cases xy <;> rfl
@[simp] theorem State.setXy_i (s : State) (xy : IndexReg) (v : Word) : (s.setXy xy v).i = s.i := by cases xy <;> rfl
@[simp] theorem State.setXy_r (s : State) (xy : IndexReg) (v : Word) : (s.setXy xy v).r = s.r := by cases xy <;> rfl
@[simp] theorem State.setXy_iff1 (s : State) (xy : IndexReg) (v : Word) : (s.setXy xy v).iff1 = s.iff1 := by cases xy <;> rfl
@[simp] theorem State.setXy_iff2 (s : State) (xy : IndexReg) (v : Word) : (s.setXy xy v).iff2 = s.iff2 := by cases xy <;> rfl
@[simp] theorem State.setXy_im (s : State) (xy : IndexReg) (v : Word) : (s.setXy xy v).im = s.im := by cases xy <;> rfl
@[simp] theorem State.setXy_halted (s : State) (xy : IndexReg) (v : Word) : (s.setXy xy v).halted = s.halted := by cases xy <;> rfl
@[simp] theorem State.setXy_intBlocked (s : State) (xy : IndexReg) (v : Word) : (s.setXy xy v).intBlocked = s.intBlocked := by cases xy <;> rfl
@[simp] theorem State.setXy_prefixMode (s : State) (xy : IndexReg) (v : Word) : (s.setXy xy v).prefixMode = s.prefixMode := by cases xy <;> rfl
@[simp] theorem State.setXy_indexMode (s : State) (xy : IndexReg) (v : Word) : (s.setXy xy v).indexMode = s.indexMode := by cases xy <;> rfl
@[simp] theorem State.setXy_resetReq (s : State) (xy : IndexReg) (v : Word) : (s.setXy xy v).resetReq = s.resetReq := by cases xy <;> rfl
@[simp] theorem State.setXy_nmiReq (s : State) (xy : IndexReg) (v : Word) : (s.setXy xy v).nmiReq = s.nmiReq := by cases xy <;> rfl
@[simp] theorem State.setXy_intReq (s : State) (xy : IndexReg) (v : Word) : (s.setXy xy v).intReq = s.intReq := by cases xy <;> rfl
@[simp] theorem State.setXy_clk (s : State) (xy : IndexReg) (v : Word) : (s.setXy xy v).clk = s.clk := by cases xy <;> rfl
@[simp] theorem State.setXy_mem (s : State) (xy : IndexReg) (v : Word) : (s.setXy xy v).mem = s.mem := by cases xy <;> rfl
@[simp] theorem State.setXy_portAnswers (s : State) (xy : IndexReg) (v : Word) : (s.setXy xy v).portAnswers = s.portAnswers := by cases xy <;> rfl
@[simp] theorem State.setXy_portReads (s : State) (xy : IndexReg) (v : Word) : (s.setXy xy v).portReads = s.portReads := by cases xy <;> rfl
@[simp] theorem State.setXy_regions (s : State) (xy : IndexReg) (v : Word) : (s.setXy xy v).regions = s.regions := by cases xy <;> rfl
@[simp] theorem State.setXy_platform (s : State) (xy : IndexReg) (v : Word) : (s.setXy xy v).platform = s.platform := by cases xy <;> rfl
@[simp] theorem State.setXy_bus (s : State) (xy : IndexReg) (v : Word) : (s.setXy xy v).bus = s.bus := by cases xy <;> rfl

/-! ### `setHalf` -/

@[simp] theorem State.setHalf_main (s : State) (xy : IndexReg) (h : Half) (v : Byte) : (s.setHalf xy h v).main = s.main := by cases xy <;> cases h <;> rfl
@[simp] theorem State.setHalf_shadow (s : State) (xy : IndexReg) (h : Half) (v : Byte) : (s.setHalf xy h v).shadow = s.shadow := by cases xy <;> cases h <;> rfl
@[simp] theorem State.setHalf_sp (s : State) (xy : IndexReg) (h : Half) (v : Byte) : (s.setHalf xy h v).sp = s.sp := by cases xy <;> cases h <;> rfl
@[simp] theorem State.setHalf_pc (s : State) (xy : IndexReg) (h : Half) (v : Byte) : (s.setHalf xy h v).pc = s.pc := by cases xy <;> cases h <;> rfl
@[simp] theorem State.setHalf_wz (s : State) (xy : IndexReg) (h : Half) (v : Byte) : (s.setHalf xy h v).wz = s.wz := by cases xy <;> cases h <;> rfl
@[simp] theorem State.setHalf_i (s : State) (xy : IndexReg) (h : Half) (v : Byte) : (s.setHalf xy h v).i = s.i := by cases xy <;> cases h <;> rfl
@[simp] theorem State.setHalf_r (s : State) (xy : IndexReg) (h : Half) (v : Byte) : (s.setHalf xy h v).r = s.r := by cases xy <;> cases h <;> rfl
@[simp] theorem State.setHalf_iff1 (s : State) (xy : IndexReg) (h : Half) (v : Byte) : (s.setHalf xy h v).iff1 = s.iff1 := by cases xy <;> cases h <;> rfl
@[simp] theorem State.setHalf_iff2 (s : State) (xy : IndexReg) (h : Half) (v : Byte) : (s.setHalf xy h v).iff2 = s.iff2 := by cases xy <;> cases h <;> rfl
@[simp] theorem State.setHalf_im (s : State) (xy : IndexReg) (h : Half) (v : Byte) : (s.setHalf xy h v).im = s.im := by cases xy <;> cases h <;> rfl
@[simp] theorem State.setHalf_halted (s : State) (xy : IndexReg) (h : Half) (v : Byte) : (s.setHalf xy h v).halted = s.halted := by cases xy <;> cases h <;> rfl
@[simp] theorem State.setHalf_intBlocked (s : State) (xy : IndexReg) (h : Half) (v : Byte) : (s.setHalf xy h v).intBlocked = s.intBlocked := by cases xy <;> cases h <;> rfl
@[simp] theorem State.setHalf_prefixMode (s : State) (xy : IndexReg) (h : Half) (v : Byte) : (s.setHalf xy h v).prefixMode = s.prefixMode := by cases xy <;> cases h <;> rfl
@[simp] theorem State.setHalf_indexMode (s : State) (xy : IndexReg) (h : Half) (v : Byte) : (s.setHalf xy h v).indexMode = s.indexMode := by cases xy <;> cases h <;> rfl
@[simp] theorem State.setHalf_resetReq (s : State) (xy : IndexReg) (h : Half) (v : Byte) : (s.setHalf xy h v).resetReq = s.resetReq := by cases xy <;> cases h <;> rfl
@[simp] theorem State.setHalf_nmiReq (s : State) (xy : IndexReg) (h : Half) (v : Byte) : (s.setHalf xy h v).nmiReq = s.nmiReq := by cases xy <;> cases h <;> rfl
@[simp] theorem State.setHalf_intReq (s : State) (xy : IndexReg) (h : Half) (v : Byte) : (s.setHalf xy h v).intReq = s.intReq := by cases xy <;> cases h <;> rfl
@[simp] theorem State.setHalf_clk (s : State) (xy : IndexReg) (h : Half) (v : Byte) : (s.setHalf xy h v).clk = s.clk := by cases xy <;> cases h <;> rfl
@[simp] theorem State.setHalf_mem (s : State) (xy : IndexReg) (h : Half) (v : Byte) : (s.setHalf xy h v).mem = s.mem := by cases xy <;> cases h <;> rfl
@[simp] theorem State.setHalf_portAnswers (s : State) (xy : IndexReg) (h : Half) (v : Byte) : (s.setHalf xy h v).portAnswers = s.portAnswers := by cases xy <;> cases h <;> rfl
@[simp] theorem State.setHalf_portReads (s : State) (xy : IndexReg) (h : Half) (v : Byte) : (s.setHalf xy h v).portReads = s.portReads := by cases xy <;> cases h <;> rfl
@[simp] theorem State.setHalf_regions (s : State) (xy : IndexReg) (h : Half) (v : Byte) : (s.setHalf xy h v).regions = s.regions := by cases xy <;> cases h <;> rfl
@[simp] theorem State.setHalf_platform (s : State) (xy : IndexReg) (h : Half) (v : Byte) : (s.setHalf xy h v).platform = s.platform := by cases xy <;> cases h <;> rfl
@[simp] theorem State.setHalf_bus (s : State) (xy : IndexReg) (h : Half) (v : Byte) : (s.setHalf xy h v).bus = s.bus := by cases xy <;> cases h <;> rfl

/-! ### `setIndexedReg` -/

@[simp] theorem State.setIndexedReg_shadow (s : State) (xy : IndexReg) (r : Reg8) (v : Byte) : (s.setIndexedReg xy r v).shadow = s.shadow := by cases r <;> cases xy <;> rfl
@[simp] theorem State.setIndexedReg_sp (s : State) (xy : IndexReg) (r : Reg8) (v : Byte) : (s.setIndexedReg xy r v).sp = s.sp := by cases r <;> cases xy <;> rfl
@[simp] theorem State.setIndexedReg_pc (s : State) (xy : IndexReg) (r : Reg8) (v : Byte) : (s.setIndexedReg xy r v).pc = s.pc := by cases r <;> cases xy <;> rfl
@[simp] theorem State.setIndexedReg_wz (s : State) (xy : IndexReg) (r : Reg8) (v : Byte) : (s.setIndexedReg xy r v).wz = s.wz := by cases r <;> cases xy <;> rfl
@[simp] theorem State.setIndexedReg_i (s : State) (xy : IndexReg) (r : Reg8) (v : Byte) : (s.setIndexedReg xy r v).i = s.i := by cases r <;> cases xy <;> rfl
@[simp] theorem State.setIndexedReg_r (s : State) (xy : IndexReg) (r : Reg8) (v : Byte) : (s.setIndexedReg xy r v).r = s.r := by cases r <;> cases xy <;> rfl
@[simp] theorem State.setIndexedReg_iff1 (s : State) (xy : IndexReg) (r : Reg8) (v : Byte) : (s.setIndexedReg xy r v).iff1 = s.iff1 := by cases r <;> cases xy <;> rfl
@[simp] theorem State.setIndexedReg_iff2 (s : State) (xy : IndexReg) (r : Reg8) (v : Byte) : (s.setIndexedReg xy r v).iff2 = s.iff2 := by cases r <;> cases xy <;> rfl
@[simp] theorem State.setIndexedReg_im (s : State) (xy : IndexReg) (r : Reg8) (v : Byte) : (s.setIndexedReg xy r v).im = s.im := by cases r <;> cases xy <;> rfl
@[simp] theorem State.setIndexedReg_halted (s : State) (xy : IndexReg) (r : Reg8) (v : Byte) : (s.setIndexedReg xy r v).halted = s.halted := by cases r <;> cases xy <;> rfl
@[simp] theorem State.setIndexedReg_intBlocked (s : State) (xy : IndexReg) (r : Reg8) (v : Byte) : (s.setIndexedReg xy r v).intBlocked = s.intBlocked := by cases r <;> cases xy <;> rfl
@[simp] theorem State.setIndexedReg_prefixMode (s : State) (xy : IndexReg) (r : Reg8) (v : Byte) : (s.setIndexedReg xy r v).prefixMode = s.prefixMode := by cases r <;> cases xy <;> rfl
@[simp] theorem State.setIndexedReg_indexMode (s : State) (xy : IndexReg) (r : Reg8) (v : Byte) : (s.setIndexedReg xy r v).indexMode = s.indexMode := by cases r <;> cases xy <;> rfl
@[simp] theorem State.setIndexedReg_resetReq (s : State) (xy : IndexReg) (r : Reg8) (v : Byte) : (s.setIndexedReg xy r v).resetReq = s.resetReq := by cases r <;> cases xy <;> rfl
@[simp] theorem State.setIndexedReg_nmiReq (s : State) (xy : IndexReg) (r : Reg8) (v : Byte) : (s.setIndexedReg xy r v).nmiReq = s.nmiReq := by cases r <;> cases xy <;> rfl
@[simp] theorem State.setIndexedReg_intReq (s : State) (xy : IndexReg) (r : Reg8) (v : Byte) : (s.setIndexedReg xy r v).intReq = s.intReq := by cases r <;> cases xy <;> rfl
@[simp] theorem State.setIndexedReg_clk (s : State) (xy : IndexReg) (r : Reg8) (v : Byte) : (s.setIndexedReg xy r v).clk = s.clk := by cases r <;> cases xy <;> rfl
@[simp] theorem State.setIndexedReg_mem (s : State) (xy : IndexReg) (r : Reg8) (v : Byte) : (s.setIndexedReg xy r v).mem = s.mem := by cases r <;> cases xy <;> rfl
@[simp] theorem State.setIndexedReg_portAnswers (s : State) (xy : IndexReg) (r : Reg8) (v : Byte) : (s.setIndexedReg xy r v).portAnswers = s.portAnswers := by cases r <;> cases xy <;> rfl
@[simp] theorem State.setIndexedReg_portReads (s : State) (xy : IndexReg) (r : Reg8) (v : Byte) : (s.setIndexedReg xy r v).portReads = s.portReads := by cases r <;> cases xy <;> rfl
@[simp] theorem State.setIndexedReg_regions (s : State) (xy : IndexReg) (r : Reg8) (v : Byte) : (s.setIndexedReg xy r v).regions = s.regions := by cases r <;> cases xy <;> rfl
@[simp] theorem State.setIndexedReg_platform (s : State) (xy : IndexReg) (r : Reg8) (v : Byte) : (s.setIndexedReg xy r v).platform = s.platform := by cases r <;> cases xy <;> rfl
@[simp] theorem State.setIndexedReg_bus (s : State) (xy : IndexReg) (r : Reg8) (v : Byte) : (s.setIndexedReg xy r v).bus = s.bus := by cases r <;> cases xy <;> rfl

/-! ### `setWz` -/

@[simp] theorem State.setWz_main (s : State) (v : Word) : (s.setWz v).main = s.main := rfl
@[simp] theorem State.setWz_shadow (s : State) (v : Word) : (s.setWz v).shadow = s.shadow := rfl
@[simp] theorem State.setWz_ix (s : State) (v : Word) : (s.setWz v).ix = s.ix := rfl
@[simp] theorem State.setWz_iy (s : State) (v : Word) : (s.setWz v).iy = s.iy := rfl
@[simp] theorem State.setWz_sp (s : State) (v : Word) : (s.setWz v).sp = s.sp := rfl
@[simp] theorem State.setWz_pc (s : State) (v : Word) : (s.setWz v).pc = s.pc := rfl
@[simp] theorem State.setWz_wz (s : State) (v : Word) : (s.setWz v).wz = v := rfl
@[simp] theorem State.setWz_i (s : State) (v : Word) : (s.setWz v).i = s.i := rfl
@[simp] theorem State.setWz_r (s : State) (v : Word) : (s.setWz v).r = s.r := rfl
@[simp] theorem State.setWz_iff1 (s : State) (v : Word) : (s.setWz v).iff1 = s.iff1 := rfl
@[simp] theorem State.setWz_iff2 (s : State) (v : Word) : (s.setWz v).iff2 = s.iff2 := rfl
@[simp] theorem State.setWz_im (s : State) (v : Word) : (s.setWz v).im = s.im := rfl
@[simp] theorem State.setWz_halted (s : State) (v : Word) : (s.setWz v).halted = s.halted := rfl
@[simp] theorem State.setWz_intBlocked (s : State) (v : Word) : (s.setWz v).intBlocked = s.intBlocked := rfl
@[simp] theorem State.setWz_prefixMode (s : State) (v : Word) : (s.setWz v).prefixMode = s.prefixMode := rfl
@[simp] theorem State.setWz_indexMode (s : State) (v : Word) : (s.setWz v).indexMode = s.indexMode := rfl
@[simp] theorem State.setWz_resetReq (s : State) (v : Word) : (s.setWz v).resetReq = s.resetReq := rfl
@[simp] theorem State.setWz_nmiReq (s : State) (v : Word) : (s.setWz v).nmiReq = s.nmiReq := rfl
@[simp] theorem State.setWz_intReq (s : State) (v : Word) : (s.setWz v).intReq = s.intReq := rfl
@[simp] theorem State.setWz_clk (s : State) (v : Word) : (s.setWz v).clk = s.clk := rfl
@[simp] theorem State.setWz_mem (s : State) (v : Word) : (s.setWz v).mem = s.mem := rfl
@[simp] theorem State.setWz_portAnswers (s : State) (v : Word) : (s.setWz v).portAnswers = s.portAnswers := rfl
@[simp] theorem State.setWz_portReads (s : State) (v : Word) : (s.setWz v).portReads = s.portReads := rfl
@[simp] theorem State.setWz_regions (s : State) (v : Word) : (s.setWz v).regions = s.regions := rfl
@[simp] theorem State.setWz_platform (s : State) (v : Word) : (s.setWz v).platform = s.platform := rfl
@[simp] theorem State.setWz_bus (s : State) (v : Word) : (s.setWz v).bus = s.bus := rfl

/-! ### `complete` -/

@[simp] theorem State.complete_main (s : State) (t : Nat) : (s.complete t).main = s.main := rfl
@[simp] theorem State.complete_shadow (s : State) (t : Nat) : (s.complete t).shadow = s.shadow := rfl
@[simp] theorem State.complete_ix (s : State) (t : Nat) : (s.complete t).ix = s.ix := rfl
@[simp] theorem State.complete_iy (s : State) (t : Nat) : (s.complete t).iy = s.iy := rfl
@[simp] theorem State.complete_sp (s : State) (t : Nat) : (s.complete t).sp = s.sp := rfl
@[simp] theorem State.complete_pc (s : State) (t : Nat) : (s.complete t).pc = s.pc := rfl
@[simp] theorem State.complete_wz (s : State) (t : Nat) : (s.complete t).wz = s.wz := rfl
@[simp] theorem State.complete_i (s : State) (t : Nat) : (s.complete t).i = s.i := rfl
@[simp] theorem State.complete_r (s : State) (t : Nat) : (s.complete t).r = s.r := rfl
@[simp] theorem State.complete_iff1 (s : State) (t : Nat) : (s.complete t).iff1 = s.iff1 := rfl
@[simp] theorem State.complete_iff2 (s : State) (t : Nat) : (s.complete t).iff2 = s.iff2 := rfl
@[simp] theorem State.complete_im (s : State) (t : Nat) : (s.complete t).im = s.im := rfl
@[simp] theorem State.complete_halted (s : State) (t : Nat) : (s.complete t).halted = s.halted := rfl
@[simp] theorem State.complete_intBlocked (s : State) (t : Nat) : (s.complete t).intBlocked = s.intBlocked := rfl
@[simp] theorem State.complete_prefixMode (s : State) (t : Nat) : (s.complete t).prefixMode = .normal := rfl
@[simp] theorem State.complete_indexMode (s : State) (t : Nat) : (s.complete t).indexMode = none := rfl
@[simp] theorem State.complete_resetReq (s : State) (t : Nat) : (s.complete t).resetReq = s.resetReq := rfl
@[simp] theorem State.complete_nmiReq (s : State) (t : Nat) : (s.complete t).nmiReq = s.nmiReq := rfl
@[simp] theorem State.complete_intReq (s : State) (t : Nat) : (s.complete t).intReq = s.intReq := rfl
@[simp] theorem State.complete_clk (s : State) (t : Nat) : (s.complete t).clk = s.clk + t := rfl
@[simp] theorem State.complete_mem (s : State) (t : Nat) : (s.complete t).mem = s.mem := rfl
@[simp] theorem State.complete_portAnswers (s : State) (t : Nat) : (s.complete t).portAnswers = s.portAnswers := rfl
@[simp] theorem State.complete_portReads (s : State) (t : Nat) : (s.complete t).portReads = s.portReads := rfl
@[simp] theorem State.complete_regions (s : State) (t : Nat) : (s.complete t).regions = s.regions := rfl
@[simp] theorem State.complete_platform (s : State) (t : Nat) : (s.complete t).platform = s.platform := rfl
@[simp] theorem State.complete_bus (s : State) (t : Nat) : (s.complete t).bus = s.bus := rfl

/-! ### `memRead16` -/

@[simp] theorem State.memRead16_main (s : State) (a : Word) : (s.memRead16 a).2.main = s.main := rfl
@[simp] theorem State.memRead16_shadow (s : State) (a : Word) : (s.memRead16 a).2.shadow = s.shadow := rfl
@[simp] theorem State.memRead16_ix (s : State) (a : Word) : (s.memRead16 a).2.ix = s.ix := rfl
@[simp] theorem State.memRead16_iy (s : State) (a : Word) : (s.memRead16 a).2.iy = s.iy := rfl
@[simp] theorem State.memRead16_sp (s : State) (a : Word) : (s.memRead16 a).2.sp = s.sp := rfl
@[simp] theorem State.memRead16_pc (s : State) (a : Word) : (s.memRead16 a).2.pc = s.pc := rfl
@[simp] theorem State.memRead16_wz (s : State) (a : Word) : (s.memRead16 a).2.wz = s.wz := rfl
@[simp] theorem State.memRead16_i (s : State) (a : Word) : (s.memRead16 a).2.i = s.i := rfl
@[simp] theorem State.memRead16_r (s : State) (a : Word) : (s.memRead16 a).2.r = s.r := rfl
@[simp] theorem State.memRead16_iff1 (s : State) (a : Word) : (s.memRead16 a).2.iff1 = s.iff1 := rfl
@[simp] theorem State.memRead16_iff2 (s : State) (a : Word) : (s.memRead16 a).2.iff2 = s.iff2 := rfl
@[simp] theorem State.memRead16_im (s : State) (a : Word) : (s.memRead16 a).2.im = s.im := rfl
@[simp] theorem State.memRead16_halted (s : State) (a : Word) : (s.memRead16 a).2.halted = s.halted := rfl
@[simp] theorem State.memRead16_intBlocked (s : State) (a : Word) : (s.memRead16 a).2.intBlocked = s.intBlocked := rfl
@[simp] theorem State.memRead16_prefixMode (s : State) (a : Word) : (s.memRead16 a).2.prefixMode = s.prefixMode := rfl
@[simp] theorem State.memRead16_indexMode (s : State) (a : Word) : (s.memRead16 a).2.indexMode = s.indexMode := rfl
@[simp] theorem State.memRead16_resetReq (s : State) (a : Word) : (s.memRead16 a).2.resetReq = s.resetReq := rfl
@[simp] theorem State.memRead16_nmiReq (s : State) (a : Word) : (s.memRead16 a).2.nmiReq = s.nmiReq := rfl
@[simp] theorem State.memRead16_intReq (s : State) (a : Word) : (s.memRead16 a).2.intReq = s.intReq := rfl
@[simp] theorem State.memRead16_clk (s : State) (a : Word) : (s.memRead16 a).2.clk = s.clk := rfl
@[simp] theorem State.memRead16_mem (s : State) (a : Word) : (s.memRead16 a).2.mem = s.mem := rfl
@[simp] theorem State.memRead16_portAnswers (s : State) (a : Word) : (s.memRead16 a).2.portAnswers = s.portAnswers := rfl
@[simp] theorem State.memRead16_portReads (s : State) (a : Word) : (s.memRead16 a).2.portReads = s.portReads := rfl
@[simp] theorem State.memRead16_regions (s : State) (a : Word) : (s.memRead16 a).2.regions = s.regions := rfl
@[simp] theorem State.memRead16_platform (s : State) (a : Word) : (s.memRead16 a).2.platform = s.platform := rfl
@[simp] theorem State.memRead16_bus (s : State) (a : Word) : (s.memRead16 a).2.bus = .memRead (a + 1) (s.peekNext a) :: .memRead a (s.peek a) :: s.bus := rfl

/-! ### `memWrite16` -/

@[simp] theorem State.memWrite16_main (s : State) (a v : Word) : (s.memWrite16 a v).main = s.main := rfl
@[simp] theorem State.memWrite16_shadow (s : State) (a v : Word) : (s.memWrite16 a v).shadow = s.shadow := rfl
@[simp] theorem State.memWrite16_ix (s : State) (a v : Word) : (s.memWrite16 a v).ix = s.ix := rfl
@[simp] theorem State.memWrite16_iy (s : State) (a v : Word) : (s.memWrite16 a v).iy = s.iy := rfl
@[simp] theorem State.memWrite16_sp (s : State) (a v : Word) : (s.memWrite16 a v).sp = s.sp := rfl
@[simp] theorem State.memWrite16_pc (s : State) (a v : Word) : (s.memWrite16 a v).pc = s.pc := rfl
@[simp] theorem State.memWrite16_wz (s : State) (a v : Word) : (s.memWrite16 a v).wz = s.wz := rfl
@[simp] theorem State.memWrite16_i (s : State) (a v : Word) : (s.memWrite16 a v).i = s.i := rfl
@[simp] theorem State.memWrite16_r (s : State) (a v : Word) : (s.memWrite16 a v).r = s.r := rfl
@[simp] theorem State.memWrite16_iff1 (s : State) (a v : Word) : (s.memWrite16 a v).iff1 = s.iff1 := rfl
@[simp] theorem State.memWrite16_iff2 (s : State) (a v : Word) : (s.memWrite16 a v).iff2 = s.iff2 := rfl
@[simp] theorem State.memWrite16_im (s : State) (a v : Word) : (s.memWrite16 a v).im = s.im := rfl
@[simp] theorem State.memWrite16_halted (s : State) (a v : Word) : (s.memWrite16 a v).halted = s.halted := rfl
@[simp] theorem State.memWrite16_intBlocked (s : State) (a v : Word) : (s.memWrite16 a v).intBlocked = s.intBlocked := rfl
@[simp] theorem State.memWrite16_prefixMode (s : State) (a v : Word) : (s.memWrite16 a v).prefixMode = s.prefixMode := rfl
@[simp] theorem State.memWrite16_indexMode (s : State) (a v : Word) : (s.memWrite16 a v).indexMode = s.indexMode := rfl
@[simp] theorem State.memWrite16_resetReq (s : State) (a v : Word) : (s.memWrite16 a v).resetReq = s.resetReq := rfl
@[simp] theorem State.memWrite16_nmiReq (s : State) (a v : Word) : (s.memWrite16 a v).nmiReq = s.nmiReq := rfl
@[simp] theorem State.memWrite16_intReq (s : State) (a v : Word) : (s.memWrite16 a v).intReq = s.intReq := rfl
@[simp] theorem State.memWrite16_clk (s : State) (a v : Word) : (s.memWrite16 a v).clk = s.clk := rfl
@[simp] theorem State.memWrite16_mem (s : State) (a v : Word) : (s.memWrite16 a v).mem = (s.mem.store s.regions a (lo v)).store s.regions (a + 1) (hi v) := rfl
@[simp] theorem State.memWrite16_portAnswers (s : State) (a v : Word) : (s.memWrite16 a v).portAnswers = s.portAnswers := rfl
@[simp] theorem State.memWrite16_portReads (s : State) (a v : Word) : (s.memWrite16 a v).portReads = s.portReads := rfl
@[simp] theorem State.memWrite16_regions (s : State) (a v : Word) : (s.memWrite16 a v).regions = s.regions := rfl
@[simp] theorem State.memWrite16_platform (s : State) (a v : Word) : (s.memWrite16 a v).platform = s.platform := rfl
@[simp] theorem State.memWrite16_bus (s : State) (a v : Word) : (s.memWrite16 a v).bus = .memWrite (a + 1) (hi v) :: .memWrite a (lo v) :: s.bus := rfl

/-! ### `push16` -/

@[simp] theorem State.push16_main (s : State) (v : Word) : (s.push16 v).main = s.main := rfl
@[simp] theorem State.push16_shadow (s : State) (v : Word) : (s.push16 v).shadow = s.shadow := rfl
@[simp] theorem State.push16_ix (s : State) (v : Word) : (s.push16 v).ix = s.ix := rfl
@[simp] theorem State.push16_iy (s : State) (v : Word) : (s.push16 v).iy = s.iy := rfl
@[simp] theorem State.push16_sp (s : State) (v : Word) : (s.push16 v).sp = s.sp - 1 - 1 := rfl
@[simp] theorem State.push16_pc (s : State) (v : Word) : (s.push16 v).pc = s.pc := rfl
@[simp] theorem State.push16_wz (s : State) (v : Word) : (s.push16 v).wz = s.wz := rfl
@[simp] theorem State.push16_i (s : State) (v : Word) : (s.push16 v).i = s.i := rfl
@[simp] theorem State.push16_r (s : State) (v : Word) : (s.push16 v).r = s.r := rfl
@[simp] theorem State.push16_iff1 (s : State) (v : Word) : (s.push16 v).iff1 = s.iff1 := rfl
@[simp] theorem State.push16_iff2 (s : State) (v : Word) : (s.push16 v).iff2 = s.iff2 := rfl
@[simp] theorem State.push16_im (s : State) (v : Word) : (s.push16 v).im = s.im := rfl
@[simp] theorem State.push16_halted (s : State) (v : Word) : (s.push16 v).halted = s.halted := rfl
@[simp] theorem State.push16_intBlocked (s : State) (v : Word) : (s.push16 v).intBlocked = s.intBlocked := rfl
@[simp] theorem State.push16_prefixMode (s : State) (v : Word) : (s.push16 v).prefixMode = s.prefixMode := rfl
@[simp] theorem State.push16_indexMode (s : State) (v : Word) : (s.push16 v).indexMode = s.indexMode := rfl
@[simp] theorem State.push16_resetReq (s : State) (v : Word) : (s.push16 v).resetReq = s.resetReq := rfl
@[simp] theorem State.push16_nmiReq (s : State) (v : Word) : (s.push16 v).nmiReq = s.nmiReq := rfl
@[simp] theorem State.push16_intReq (s : State) (v : Word) : (s.push16 v).intReq = s.intReq := rfl
@[simp] theorem State.push16_clk (s : State) (v : Word) : (s.push16 v).clk = s.clk := rfl
@[simp] theorem State.push16_mem (s : State) (v : Word) : (s.push16 v).mem = (s.mem.store s.regions (s.sp - 1) (hi v)).store s.regions (s.sp - 1 - 1) (lo v) := rfl
@[simp] theorem State.push16_portAnswers (s : State) (v : Word) : (s.push16 v).portAnswers = s.portAnswers := rfl
@[simp] theorem State.push16_portReads (s : State) (v : Word) : (s.push16 v).portReads = s.portReads := rfl
@[simp] theorem State.push16_regions (s : State) (v : Word) : (s.push16 v).regions = s.regions := rfl
@[simp] theorem State.push16_platform (s : State) (v : Word) : (s.push16 v).platform = s.platform := rfl
@[simp] theorem State.push16_bus (s : State) (v : Word) : (s.push16 v).bus = .memWrite (s.sp - 1 - 1) (lo v) :: .memWrite (s.sp - 1) (hi v) :: s.bus := rfl

/-! ### `pop16` -/

@[simp] theorem State.pop16_main (s : State) : s.pop16.2.main = s.main := rfl
@[simp] theorem State.pop16_shadow (s : State) : s.pop16.2.shadow = s.shadow := rfl
@[simp] theorem State.pop16_ix (s : State) : s.pop16.2.ix = s.ix := rfl
@[simp] theorem State.pop16_iy (s : State) : s.pop16.2.iy = s.iy := rfl
@[simp] theorem State.pop16_sp (s : State) : s.pop16.2.sp = s.sp + 1 + 1 := rfl
@[simp] theorem State.pop16_pc (s : State) : s.pop16.2.pc = s.pc := rfl
@[simp] theorem State.pop16_wz (s : State) : s.pop16.2.wz = s.wz := rfl
@[simp] theorem State.pop16_i (s : State) : s.pop16.2.i = s.i := rfl
@[simp] theorem State.pop16_r (s : State) : s.pop16.2.r = s.r := rfl
@[simp] theorem State.pop16_iff1 (s : State) : s.pop16.2.iff1 = s.iff1 := rfl
@[simp] theorem State.pop16_iff2 (s : State) : s.pop16.2.iff2 = s.iff2 := rfl
@[simp] theorem State.pop16_im (s : State) : s.pop16.2.im = s.im := rfl
@[simp] theorem State.pop16_halted (s : State) : s.pop16.2.halted = s.halted := rfl
@[simp] theorem State.pop16_intBlocked (s : State) : s.pop16.2.intBlocked = s.intBlocked := rfl
@[simp] theorem State.pop16_prefixMode (s : State) : s.pop16.2.prefixMode = s.prefixMode := rfl
@[simp] theorem State.pop16_indexMode (s : State) : s.pop16.2.indexMode = s.indexMode := rfl
@[simp] theorem State.pop16_resetReq (s : State) : s.pop16.2.resetReq = s.resetReq := rfl
@[simp] theorem State.pop16_nmiReq (s : State) : s.pop16.2.nmiReq = s.nmiReq := rfl
@[simp] theorem State.pop16_intReq (s : State) : s.pop16.2.intReq = s.intReq := rfl
@[simp] theorem State.pop16_clk (s : State) : s.pop16.2.clk = s.clk := rfl
@[simp] theorem State.pop16_mem (s : State) : s.pop16.2.mem = s.mem := rfl
@[simp] theorem State.pop16_portAnswers (s : State) : s.pop16.2.portAnswers = s.portAnswers := rfl
@[simp] theorem State.pop16_portReads (s : State) : s.pop16.2.portReads = s.portReads := rfl
@[simp] theorem State.pop16_regions (s : State) : s.pop16.2.regions = s.regions := rfl
@[simp] theorem State.pop16_platform (s : State) : s.pop16.2.platform = s.platform := rfl
@[simp] theorem State.pop16_bus (s : State) : s.pop16.2.bus = .memRead (s.sp + 1) (s.peekNext s.sp) :: .memRead s.sp (s.peek s.sp) :: s.bus := rfl

/-! ### `jump` -/

@[simp] theorem State.jump_main (s : State) (v : Word) : (s.jump v).main = s.main := rfl
@[simp] theorem State.jump_shadow (s : State) (v : Word) : (s.jump v).shadow = s.shadow := rfl
@[simp] theorem State.jump_ix (s : State) (v : Word) : (s.jump v).ix = s.ix := rfl
@[simp] theorem State.jump_iy (s : State) (v : Word) : (s.jump v).iy = s.iy := rfl
@[simp] theorem State.jump_sp (s : State) (v : Word) : (s.jump v).sp = s.sp := rfl
@[simp] theorem State.jump_pc (s : State) (v : Word) : (s.jump v).pc = v := rfl
@[simp] theorem State.jump_wz (s : State) (v : Word) : (s.jump v).wz = v := rfl
@[simp] theorem State.jump_i (s : State) (v : Word) : (s.jump v).i = s.i := rfl
@[simp] theorem State.jump_r (s : State) (v : Word) : (s.jump v).r = s.r := rfl
@[simp] theorem State.jump_iff1 (s : State) (v : Word) : (s.jump v).iff1 = s.iff1 := rfl
@[simp] theorem State.jump_iff2 (s : State) (v : Word) : (s.jump v).iff2 = s.iff2 := rfl
@[simp] theorem State.jump_im (s : State) (v : Word) : (s.jump v).im = s.im := rfl
@[simp] theorem State.jump_halted (s : State) (v : Word) : (s.jump v).halted = s.halted := rfl
@[simp] theorem State.jump_intBlocked (s : State) (v : Word) : (s.jump v).intBlocked = s.intBlocked := rfl
@[simp] theorem State.jump_prefixMode (s : State) (v : Word) : (s.jump v).prefixMode = s.prefixMode := rfl
@[simp] theorem State.jump_indexMode (s : State) (v : Word) : (s.jump v).indexMode = s.indexMode := rfl
@[simp] theorem State.jump_resetReq (s : State) (v : Word) : (s.jump v).resetReq = s.resetReq := rfl
@[simp] theorem State.jump_nmiReq (s : State) (v : Word) : (s.jump v).nmiReq = s.nmiReq := rfl
@[simp] theorem State.jump_intReq (s : State) (v : Word) : (s.jump v).intReq = s.intReq := rfl
@[simp] theorem State.jump_clk (s : State) (v : Word) : (s.jump v).clk = s.clk := rfl
@[simp] theorem State.jump_mem (s : State) (v : Word) : (s.jump v).mem = s.mem := rfl
@[simp] theorem State.jump_portAnswers (s : State) (v : Word) : (s.jump v).portAnswers = s.portAnswers := rfl
@[simp] theorem State.jump_portReads (s : State) (v : Word) : (s.jump v).portReads = s.portReads := rfl
@[simp] theorem State.jump_regions (s : State) (v : Word) : (s.jump v).regions = s.regions := rfl
@[simp] theorem State.jump_platform (s : State) (v : Word) : (s.jump v).platform = s.platform := rfl
@[simp] theorem State.jump_bus (s : State) (v : Word) : (s.jump v).bus = s.bus := rfl

/-! ### `rewind` -/

@[simp] theorem State.rewind_main (s : State) : s.rewind.main = s.main := rfl
@[simp] theorem State.rewind_shadow (s : State) : s.rewind.shadow = s.shadow := rfl
@[simp] theorem State.rewind_ix (s : State) : s.rewind.ix = s.ix := rfl
@[simp] theorem State.rewind_iy (s : State) : s.rewind.iy = s.iy := rfl
@[simp] theorem State.rewind_sp (s : State) : s.rewind.sp = s.sp := rfl
@[simp] theorem State.rewind_pc (s : State) : s.rewind.pc = s.pc - 2 := rfl
@[simp] theorem State.rewind_wz (s : State) : s.rewind.wz = s.wz := rfl
@[simp] theorem State.rewind_i (s : State) : s.rewind.i = s.i := rfl
@[simp] theorem State.rewind_r (s : State) : s.rewind.r = s.r := rfl
@[simp] theorem State.rewind_iff1 (s : State) : s.rewind.iff1 = s.iff1 := rfl
@[simp] theorem State.rewind_iff2 (s : State) : s.rewind.iff2 = s.iff2 := rfl
@[simp] theorem State.rewind_im (s : State) : s.rewind.im = s.im := rfl
@[simp] theorem State.rewind_halted (s : State) : s.rewind.halted = s.halted := rfl
@[simp] theorem State.rewind_intBlocked (s : State) : s.rewind.intBlocked = s.intBlocked := rfl
@[simp] theorem State.rewind_prefixMode (s : State) : s.rewind.prefixMode = s.prefixMode := rfl
@[simp] theorem State.rewind_indexMode (s : State) : s.rewind.indexMode = s.indexMode := rfl
@[simp] theorem State.rewind_resetReq (s : State) : s.rewind.resetReq = s.resetReq := rfl
@[simp] theorem State.rewind_nmiReq (s : State) : s.rewind.nmiReq = s.nmiReq := rfl
@[simp] theorem State.rewind_intReq (s : State) : s.rewind.intReq = s.intReq := rfl
@[simp] theorem State.rewind_clk (s : State) : s.rewind.clk = s.clk := rfl
@[simp] theorem State.rewind_mem (s : State) : s.rewind.mem = s.mem := rfl
@[simp] theorem State.rewind_portAnswers (s : State) : s.rewind.portAnswers = s.portAnswers := rfl
@[simp] theorem State.rewind_portReads (s : State) : s.rewind.portReads = s.portReads := rfl
@[simp] theorem State.rewind_regions (s : State) : s.rewind.regions = s.regions := rfl
@[simp] theorem State.rewind_platform (s : State) : s.rewind.platform = s.platform := rfl
@[simp] theorem State.rewind_bus (s : State) : s.rewind.bus = s.bus := rfl

/-! ### `modifyAt` -/

@[simp] theorem State.modifyAt_main (s : State) (g : Byte → Byte → Byte × Byte) (a : Word) : (s.modifyAt g a).2.main = { s.main with f := (g (s.peek a) s.main.f).2 } := rfl
@[simp] theorem State.modifyAt_shadow (s : State) (g : Byte → Byte → Byte × Byte) (a : Word) : (s.modifyAt g a).2.shadow = s.shadow := rfl
@[simp] theorem State.modifyAt_ix (s : State) (g : Byte → Byte → Byte × Byte) (a : Word) : (s.modifyAt g a).2.ix = s.ix := rfl
@[simp] theorem State.modifyAt_iy (s : State) (g : Byte → Byte → Byte × Byte) (a : Word) : (s.modifyAt g a).2.iy = s.iy := rfl
@[simp] theorem State.modifyAt_sp (s : State) (g : Byte → Byte → Byte × Byte) (a : Word) : (s.modifyAt g a).2.sp = s.sp := rfl
@[simp] theorem State.modifyAt_pc (s : State) (g : Byte → Byte → Byte × Byte) (a : Word) : (s.modifyAt g a).2.pc = s.pc := rfl
@[simp] theorem State.modifyAt_wz (s : State) (g : Byte → Byte → Byte × Byte) (a : Word) : (s.modifyAt g a).2.wz = s.wz := rfl
@[simp] theorem State.modifyAt_i (s : State) (g : Byte → Byte → Byte × Byte) (a : Word) : (s.modifyAt g a).2.i = s.i := rfl
@[simp] theorem State.modifyAt_r (s : State) (g : Byte → Byte → Byte × Byte) (a : Word) : (s.modifyAt g a).2.r = s.r := rfl
@[simp] theorem State.modifyAt_iff1 (s : State) (g : Byte → Byte → Byte × Byte) (a : Word) : (s.modifyAt g a).2.iff1 = s.iff1 := rfl
@[simp] theorem State.modifyAt_iff2 (s : State) (g : Byte → Byte → Byte × Byte) (a : Word) : (s.modifyAt g a).2.iff2 = s.iff2 := rfl
@[simp] theorem State.modifyAt_im (s : State) (g : Byte → Byte → Byte × Byte) (a : Word) : (s.modifyAt g a).2.im = s.im := rfl
@[simp] theorem State.modifyAt_halted (s : State) (g : Byte → Byte → Byte × Byte) (a : Word) : (s.modifyAt g a).2.halted = s.halted := rfl
@[simp] theorem State.modifyAt_intBlocked (s : State) (g : Byte → Byte → Byte × Byte) (a : Word) : (s.modifyAt g a).2.intBlocked = s.intBlocked := rfl
@[simp] theorem State.modifyAt_prefixMode (s : State) (g : Byte → Byte → Byte × Byte) (a : Word) : (s.modifyAt g a).2.prefixMode = s.prefixMode := rfl
@[simp] theorem State.modifyAt_indexMode (s : State) (g : Byte → Byte → Byte × Byte) (a : Word) : (s.modifyAt g a).2.indexMode = s.indexMode := rfl
@[simp] theorem State.modifyAt_resetReq (s : State) (g : Byte → Byte → Byte × Byte) (a : Word) : (s.modifyAt g a).2.resetReq = s.resetReq := rfl
@[simp] theorem State.modifyAt_nmiReq (s : State) (g : Byte → Byte → Byte × Byte) (a : Word) : (s.modifyAt g a).2.nmiReq = s.nmiReq := rfl
@[simp] theorem State.modifyAt_intReq (s : State) (g : Byte → Byte → Byte × Byte) (a : Word) : (s.modifyAt g a).2.intReq = s.intReq := rfl
@[simp] theorem State.modifyAt_clk (s : State) (g : Byte → Byte → Byte × Byte) (a : Word) : (s.modifyAt g a).2.clk = s.clk := rfl
@[simp] theorem State.modifyAt_mem (s : State) (g : Byte → Byte → Byte × Byte) (a : Word) : (s.modifyAt g a).2.mem = s.mem.store s.regions a (g (s.peek a) s.main.f).1 := rfl
@[simp] theorem State.modifyAt_portAnswers (s : State) (g : Byte → Byte → Byte × Byte) (a : Word) : (s.modifyAt g a).2.portAnswers = s.portAnswers := rfl
@[simp] theorem State.modifyAt_portReads (s : State) (g : Byte → Byte → Byte × Byte) (a : Word) : (s.modifyAt g a).2.portReads = s.portReads := rfl
@[simp] theorem State.modifyAt_regions (s : State) (g : Byte → Byte → Byte × Byte) (a : Word) : (s.modifyAt g a).2.regions = s.regions := rfl
@[simp] theorem State.modifyAt_platform (s : State) (g : Byte → Byte → Byte × Byte) (a : Word) : (s.modifyAt g a).2.platform = s.platform := rfl
@[simp] theorem State.modifyAt_bus (s : State) (g : Byte → Byte → Byte × Byte) (a : Word) : (s.modifyAt g a).2.bus = .memWrite a (g (s.peek a) s.main.f).1 :: .memRead a (s.peek a) :: s.bus := rfl

/-! ### Results of the operations that give one -/

@[simp] theorem State.memRead_fst (s : State) (a : Word) : (s.memRead a).1 = s.peek a := rfl
@[simp] theorem State.portRead_fst (s : State) (p : Word) : (s.portRead p).1 = s.portAnswer p := rfl
@[simp] theorem State.fetch8_fst (s : State) : s.fetch8.1 = s.peek s.pc := rfl
@[simp] theorem State.fetchOp_fst (s : State) : s.fetchOp.1 = s.peek s.pc := rfl
@[simp] theorem State.memRead16_fst (s : State) (a : Word) : (s.memRead16 a).1 = join (s.peekNext a) (s.peek a) := rfl
@[simp] theorem State.pop16_fst (s : State) : s.pop16.1 = join (s.peekNext s.sp) (s.peek s.sp) := rfl
@[simp] theorem State.modifyAt_fst (s : State) (g : Byte → Byte → Byte × Byte) (a : Word) :
    (s.modifyAt g a).1 = (g (s.peek a) s.main.f).1 := rfl
@[simp] theorem State.finish_eq (s : State) (total fetches : Nat) :
    s.finish total fetches = .next (s.complete (total - Config.tFetch * fetches)) := rfl

/-! ### Registers written and read back (R20 to R23) -/

@[simp] theorem State.reg_setReg (s : State) (r r' : Reg8) (v : Byte) :
    (s.setReg r v).reg r' = if r' = r then v else s.reg r' := by cases r <;> cases r' <;> rfl
@[simp] theorem State.setReg_main_f (s : State) (r : Reg8) (v : Byte) : (s.setReg r v).main.f = s.main.f := by
  cases r <;> rfl
@[simp] theorem State.xy_setXy (s : State) (xy xy' : IndexReg) (v : Word) :
    (s.setXy xy v).xy xy' = if xy' = xy then v else s.xy xy' := by cases xy <;> cases xy' <;> rfl

@[simp] theorem State.pair_setPair (s : State) (dd : Pair) (v : Word) : (s.setPair dd v).pair dd = v := by
  cases dd <;> simp [State.setPair, State.pair, State.bc, State.de, State.hl]
@[simp] theorem State.stackPair_setStackPair (s : State) (qq : StackPair) (v : Word) :
    (s.setStackPair qq v).stackPair qq = v := by
  cases qq <;> simp [State.setStackPair, State.stackPair, State.bc, State.de, State.hl, State.af]

end Sys2Proof.Machine
end

