-- ==== Sys2Proof/Laws/Memory.lean ====
section
/-! SUPPORT. The laws of memory: a read after a write gives the value written at that address and the old value at every
other, every write keeps the canonical form, and the canonical form determines the list. -/

namespace Sys2Proof.Machine

/-! ### The list operations -/

theorem Memory.read_erase (m : Memory) (a b : Nat) :
    (m.erase a).read b = if b = a then Memory.unlisted else m.read b := by
  induction m with
  | nil => simp [Memory.erase, Memory.read]
  | cons x m ih =>
    obtain ⟨k, v⟩ := x
    by_cases hk : k = a
    · simp only [Memory.erase, hk, if_true, ih, Memory.read]
      by_cases hb : b = a
      · simp [hb]
      · simp [hb, Ne.symm hb]
    · simp only [Memory.erase, hk, if_false, Memory.read, ih]
      by_cases hb : k = b
      · subst hb; simp [hk]
      · simp [hb]

theorem Memory.read_insert_self (m : Memory) (a : Nat) (v : Byte) : ((m.erase a).insert a v).read a = v := by
  induction m with
  | nil => simp [Memory.erase, Memory.insert, Memory.read]
  | cons x m ih =>
    obtain ⟨k, w⟩ := x
    by_cases hk : k = a
    · simpa [Memory.erase, hk] using ih
    · simp only [Memory.erase, hk, if_false, Memory.insert]
      by_cases hlt : a < k
      · simp [hlt, Memory.read]
      · simp [hlt, Memory.read, hk, ih]

theorem Memory.read_insert_of_ne (m : Memory) (a b : Nat) (v : Byte) (h : b ≠ a) : (m.insert a v).read b = m.read b := by
  induction m with
  | nil => simp [Memory.insert, Memory.read, Ne.symm h]
  | cons x m ih =>
    obtain ⟨k, w⟩ := x
    simp only [Memory.insert]
    by_cases hlt : a < k
    · simp [hlt, Memory.read, Ne.symm h]
    · simp [hlt, Memory.read, ih]

/-- A read after a write. -/
@[simp] theorem Memory.read_write (m : Memory) (a b : Nat) (v : Byte) :
    (m.write a v).read b = if b = a then v else m.read b := by
  unfold Memory.write
  by_cases hv : v = Memory.unlisted
  · simp [hv, Memory.read_erase]
  · by_cases hb : b = a
    · subst hb; simp [hv, Memory.read_insert_self]
    · simp [hv, hb, Memory.read_insert_of_ne, Memory.read_erase]

/-! ### The canonical form -/

theorem Memory.wfAbove_mono {m : Memory} {low low' : Nat} (h : low' ≤ low) (hm : m.wfAbove low = true) :
    m.wfAbove low' = true := by
  cases m with
  | nil => rfl
  | cons x m =>
    obtain ⟨k, v⟩ := x
    simp only [Memory.wfAbove, Bool.and_eq_true, decide_eq_true_eq] at hm ⊢
    exact ⟨⟨⟨by omega, hm.1.1.2⟩, hm.1.2⟩, hm.2⟩

theorem Memory.wfAbove_erase {m : Memory} {low : Nat} (a : Nat) (hm : m.wfAbove low = true) :
    (m.erase a).wfAbove low = true := by
  induction m generalizing low with
  | nil => rfl
  | cons x m ih =>
    obtain ⟨k, v⟩ := x
    simp only [Memory.wfAbove, Bool.and_eq_true, decide_eq_true_eq] at hm
    by_cases hk : k = a
    · simp only [Memory.erase, hk, if_true]
      exact Memory.wfAbove_mono (by omega) (ih hm.2)
    · simp only [Memory.erase, hk, if_false, Memory.wfAbove, Bool.and_eq_true, decide_eq_true_eq]
      exact ⟨hm.1, ih hm.2⟩

theorem Memory.wfAbove_insert_erase {m : Memory} {low a : Nat} {v : Byte} (hl : low ≤ a) (ha : a < 65536)
    (hv : v ≠ Memory.unlisted) (hm : m.wfAbove low = true) : ((m.erase a).insert a v).wfAbove low = true := by
  induction m generalizing low with
  | nil => simp [Memory.erase, Memory.insert, Memory.wfAbove, hl, ha, hv]
  | cons x m ih =>
    obtain ⟨k, w⟩ := x
    simp only [Memory.wfAbove, Bool.and_eq_true, decide_eq_true_eq] at hm
    by_cases hk : k = a
    · simp only [Memory.erase, hk, if_true]
      exact ih hl (Memory.wfAbove_mono (by omega) hm.2)
    · simp only [Memory.erase, hk, if_false, Memory.insert]
      by_cases hlt : a < k
      · simp only [hlt, if_true, Memory.wfAbove, Bool.and_eq_true, decide_eq_true_eq]
        exact ⟨⟨⟨hl, ha⟩, by simpa using hv⟩, ⟨⟨by omega, hm.1.1.2⟩, hm.1.2⟩, Memory.wfAbove_erase a hm.2⟩
      · simp only [hlt, if_false, Memory.wfAbove, Bool.and_eq_true, decide_eq_true_eq]
        exact ⟨hm.1, ih (by omega) hm.2⟩

/-- A write at a 16-bit address keeps the canonical form. -/
theorem Memory.wf_write {m : Memory} (a : Word) (v : Byte) (hm : m.wf = true) : (m.write a.toNat v).wf = true := by
  unfold Memory.write
  split
  · exact Memory.wfAbove_erase _ hm
  · rename_i hv
    exact Memory.wfAbove_insert_erase (Nat.zero_le _) a.isLt hv hm

theorem Memory.read_of_lt {m : Memory} {low a : Nat} (hm : m.wfAbove low = true) (h : a < low) : m.read a = Memory.unlisted := by
  induction m generalizing low with
  | nil => rfl
  | cons x m ih =>
    obtain ⟨k, v⟩ := x
    simp only [Memory.wfAbove, Bool.and_eq_true, decide_eq_true_eq] at hm
    rw [Memory.read, if_neg (by omega)]
    exact ih hm.2 (by omega)

/-- Two memories in canonical form that read alike at every address are the same list. -/
theorem Memory.ext_of_wf {m m' : Memory} {low low' : Nat} (hm : m.wfAbove low = true) (hm' : m'.wfAbove low' = true)
    (h : ∀ a, m.read a = m'.read a) : m = m' := by
  induction m generalizing low low' m' with
  | nil =>
    cases m' with
    | nil => rfl
    | cons x m' =>
      obtain ⟨k, v⟩ := x
      simp only [Memory.wfAbove, Bool.and_eq_true, decide_eq_true_eq] at hm'
      have := h k
      simp [Memory.read] at this
      simp [this] at hm'
  | cons x m ih =>
    obtain ⟨k, v⟩ := x
    simp only [Memory.wfAbove, Bool.and_eq_true, decide_eq_true_eq] at hm
    cases m' with
    | nil =>
      have := h k
      simp [Memory.read] at this
      simp [this] at hm
    | cons x' m' =>
      obtain ⟨k', v'⟩ := x'
      simp only [Memory.wfAbove, Bool.and_eq_true, decide_eq_true_eq] at hm'
      have hkk : k = k' := by
        rcases Nat.lt_trichotomy k k' with hlt | heq | hgt
        · have h1 := h k
          rw [Memory.read, if_pos rfl, Memory.read, if_neg (by omega), Memory.read_of_lt hm'.2 (by omega)] at h1
          simp [h1] at hm
        · exact heq
        · have h1 := h k'
          rw [Memory.read, if_neg (by omega), Memory.read_of_lt hm.2 (by omega), Memory.read, if_pos rfl] at h1
          simp [← h1] at hm'
      subst hkk
      have hv : v = v' := by simpa [Memory.read] using h k
      subst hv
      have : m = m' := by
        refine ih hm.2 hm'.2 fun a => ?_
        rcases Nat.lt_or_ge a (k + 1) with hlt | hge
        · rw [Memory.read_of_lt hm.2 hlt, Memory.read_of_lt hm'.2 hlt]
        · have := h a
          rwa [Memory.read, if_neg (by omega), Memory.read, if_neg (by omega)] at this
      rw [this]

/-! ### The same of states -/

/-- The content of an address is unchanged where plain memory is. -/
theorem State.content_eq_of_mem {s t : State} (h : t.mem = s.mem) (a : Word) : t.content a = s.content a := by
  simp [State.content, h]

/-- The kind of an address is unchanged where the memory map is. -/
theorem State.memKind_eq_of_regions {s t : State} (h : t.regions = s.regions) (a : Word) : t.memKind a = s.memKind a := by
  simp [State.memKind, h]

/-- What a read is answered with depends on plain memory, the memory map, the platform and the accesses before it, and on nothing
else. -/
theorem State.peek_eq_of {s t : State} (hm : t.mem = s.mem) (hr : t.regions = s.regions) (hp : t.platform = s.platform)
    (hb : t.bus = s.bus) (a : Word) : t.peek a = s.peek a := by
  simp only [State.peek, hm, hr, hp, hb]

/-- A read of plain memory is answered with its content. -/
theorem State.peek_of_plain {s : State} {a : Word} (h : s.memKind a ≠ .device) : s.peek a = s.content a := by
  unfold State.peek Memory.answer
  unfold State.memKind at h
  split
  · rfl
  · rfl
  · contradiction

/-- A read of anything else is answered with a free value. -/
theorem State.peek_of_device {s : State} {a : Word} (h : s.memKind a = .device) :
    s.peek a = Config.freeMemByte s.platform s.bus a := by
  unfold State.memKind at h
  simp [State.peek, Memory.answer, h]

/-- What plain memory does not change between, a read of it is answered alike. -/
theorem State.peek_eq_of_plain {s t : State} {a : Word} (h : s.memKind a ≠ .device) (hm : t.mem = s.mem)
    (hr : t.regions = s.regions) : t.peek a = s.peek a := by
  rw [State.peek_of_plain h, State.peek_of_plain (State.memKind_eq_of_regions hr a ▸ h), State.content_eq_of_mem hm]

/-- The second byte of a 16-bit read of plain memory is the content of its address. -/
theorem State.peekNext_of_plain {s : State} {a : Word} (h : s.memKind (a + 1) ≠ .device) :
    s.peekNext a = s.content (a + 1) := State.peek_of_plain h

/-- Plain memory after a write, at every address (R70, R82): only RAM takes the byte. -/
theorem Memory.read_store (regions : List Region) (m : Memory) (a b : Word) (v : Byte) :
    (m.store regions a v).read b.toNat = if b = a ∧ memKindIn regions b = .ram then v else m.read b.toNat := by
  unfold Memory.store
  by_cases hb : b = a
  · subst hb
    cases memKindIn regions b <;> simp
  · cases memKindIn regions a <;> simp [hb, BitVec.toNat_inj]

theorem Memory.store_of_ram {regions : List Region} {a : Word} (h : memKindIn regions a = .ram) (m : Memory) (v : Byte) :
    m.store regions a v = m.write a.toNat v := by
  simp [Memory.store, h]

/-- A write keeps the canonical form. -/
theorem Memory.wf_store {m : Memory} (regions : List Region) (a : Word) (v : Byte) (h : m.wf = true) :
    (m.store regions a v).wf = true := by
  unfold Memory.store
  cases memKindIn regions a
  · exact Memory.wf_write a v h
  · exact h
  · exact h

/-- The content of every address after a write (R82). -/
@[simp] theorem State.content_memWrite (s : State) (a b : Word) (v : Byte) :
    (s.memWrite a v).content b = if b = a ∧ s.memKind b = .ram then v else s.content b :=
  Memory.read_store s.regions s.mem a b v

@[simp] theorem State.memKind_memWrite (s : State) (a b : Word) (v : Byte) : (s.memWrite a v).memKind b = s.memKind b := rfl

theorem State.wf_memWrite {s : State} (a : Word) (v : Byte) (h : s.mem.wf = true) : (s.memWrite a v).mem.wf = true :=
  Memory.wf_store _ a v h

theorem State.wf_memWrite16 {s : State} (a v : Word) (h : s.mem.wf = true) : (s.memWrite16 a v).mem.wf = true :=
  Memory.wf_store _ _ _ (Memory.wf_store _ _ _ h)

theorem State.wf_push16 {s : State} (v : Word) (h : s.mem.wf = true) : (s.push16 v).mem.wf = true :=
  Memory.wf_store _ _ _ (Memory.wf_store _ _ _ h)

theorem State.wf_placeBytes {s : State} (a : Word) (bs : List Byte) (h : s.mem.wf = true) :
    (s.placeBytes a bs).mem.wf = true := by
  induction bs generalizing s a with
  | nil => exact h
  | cons v bs ih => exact ih _ (Memory.wf_write _ _ h)

/-- Contents replaced whole are in canonical form. -/
theorem Memory.wf_replace (cells : List (Word × Byte)) :
    Memory.wf (cells.foldr (fun p m => Memory.write m p.1.toNat p.2) ([] : Memory)) = true := by
  induction cells with
  | nil => rfl
  | cons p cells ih => exact Memory.wf_write _ _ ih

/-- Contents replaced whole, at every address: the first entry for it, else what an unlisted address reads as. -/
theorem Memory.read_replace (cells : List (Word × Byte)) (b : Word) :
    Memory.read (cells.foldr (fun p m => Memory.write m p.1.toNat p.2) ([] : Memory)) b.toNat =
      match cells.find? (fun p => p.1 = b) with
      | some p => p.2
      | none => Memory.unlisted := by
  induction cells with
  | nil => rfl
  | cons p cells ih =>
    rw [List.foldr_cons, Memory.read_write, ih]
    by_cases h : p.1 = b
    · simp [h]
    · have : ¬ b.toNat = p.1.toNat := fun e => h (BitVec.toNat_inj.1 e).symm
      simp [h, this]

/-! ### What a read is answered with, through the operations that perform no access -/

@[simp] theorem State.peek_setReg (s : State) (r : Reg8) (v : Byte) (b : Word) : (s.setReg r v).peek b = s.peek b := State.peek_eq_of (by simp) (by simp) (by simp) (by simp) b
@[simp] theorem State.peek_setF (s : State) (v : Byte) (b : Word) : (s.setF v).peek b = s.peek b := State.peek_eq_of (by simp) (by simp) (by simp) (by simp) b
@[simp] theorem State.peek_setAF (s : State) (v : Byte × Byte) (b : Word) : (s.setAF v).peek b = s.peek b := State.peek_eq_of (by simp) (by simp) (by simp) (by simp) b
@[simp] theorem State.peek_setBc (s : State) (v : Word) (b : Word) : (s.setBc v).peek b = s.peek b := State.peek_eq_of (by simp) (by simp) (by simp) (by simp) b
@[simp] theorem State.peek_setDe (s : State) (v : Word) (b : Word) : (s.setDe v).peek b = s.peek b := State.peek_eq_of (by simp) (by simp) (by simp) (by simp) b
@[simp] theorem State.peek_setHl (s : State) (v : Word) (b : Word) : (s.setHl v).peek b = s.peek b := State.peek_eq_of (by simp) (by simp) (by simp) (by simp) b
@[simp] theorem State.peek_setPair (s : State) (dd : Pair) (v : Word) (b : Word) : (s.setPair dd v).peek b = s.peek b := State.peek_eq_of (by simp) (by simp) (by simp) (by simp) b
@[simp] theorem State.peek_setStackPair (s : State) (qq : StackPair) (v : Word) (b : Word) : (s.setStackPair qq v).peek b = s.peek b := State.peek_eq_of (by simp) (by simp) (by simp) (by simp) b
@[simp] theorem State.peek_setXy (s : State) (xy : IndexReg) (v : Word) (b : Word) : (s.setXy xy v).peek b = s.peek b := State.peek_eq_of (by simp) (by simp) (by simp) (by simp) b
@[simp] theorem State.peek_setHalf (s : State) (xy : IndexReg) (h : Half) (v : Byte) (b : Word) : (s.setHalf xy h v).peek b = s.peek b := State.peek_eq_of (by simp) (by simp) (by simp) (by simp) b
@[simp] theorem State.peek_setIndexedReg (s : State) (xy : IndexReg) (r : Reg8) (v : Byte) (b : Word) : (s.setIndexedReg xy r v).peek b = s.peek b := State.peek_eq_of (by simp) (by simp) (by simp) (by simp) b
@[simp] theorem State.peek_setWz (s : State) (v : Word) (b : Word) : (s.setWz v).peek b = s.peek b := State.peek_eq_of (by simp) (by simp) (by simp) (by simp) b
@[simp] theorem State.peek_complete (s : State) (t : Nat) (b : Word) : (s.complete t).peek b = s.peek b := State.peek_eq_of (by simp) (by simp) (by simp) (by simp) b
@[simp] theorem State.peek_jump (s : State) (v : Word) (b : Word) : (s.jump v).peek b = s.peek b := State.peek_eq_of (by simp) (by simp) (by simp) (by simp) b
@[simp] theorem State.peek_rewind (s : State) (b : Word) : s.rewind.peek b = s.peek b := State.peek_eq_of (by simp) (by simp) (by simp) (by simp) b

/-! ### The content of an address through the operations that store nothing -/

@[simp] theorem State.content_record (s : State) (x : BusAccess) (b : Word) : (s.record x).content b = s.content b := State.content_eq_of_mem (by simp) b
@[simp] theorem State.content_memRead (s : State) (a : Word) (b : Word) : (s.memRead a).2.content b = s.content b := State.content_eq_of_mem (by simp) b
@[simp] theorem State.content_portRead (s : State) (p : Word) (b : Word) : (s.portRead p).2.content b = s.content b := State.content_eq_of_mem (by simp) b
@[simp] theorem State.content_portWrite (s : State) (p : Word) (v : Byte) (b : Word) : (s.portWrite p v).content b = s.content b := State.content_eq_of_mem (by simp) b
@[simp] theorem State.content_fetch8 (s : State) (b : Word) : s.fetch8.2.content b = s.content b := State.content_eq_of_mem (by simp) b
@[simp] theorem State.content_fetchOp (s : State) (b : Word) : s.fetchOp.2.content b = s.content b := State.content_eq_of_mem (by simp) b
@[simp] theorem State.content_memRead16 (s : State) (a : Word) (b : Word) : (s.memRead16 a).2.content b = s.content b := State.content_eq_of_mem (by simp) b
@[simp] theorem State.content_pop16 (s : State) (b : Word) : s.pop16.2.content b = s.content b := State.content_eq_of_mem (by simp) b
@[simp] theorem State.content_setReg (s : State) (r : Reg8) (v : Byte) (b : Word) : (s.setReg r v).content b = s.content b := State.content_eq_of_mem (by simp) b
@[simp] theorem State.content_setF (s : State) (v : Byte) (b : Word) : (s.setF v).content b = s.content b := State.content_eq_of_mem (by simp) b
@[simp] theorem State.content_setAF (s : State) (v : Byte × Byte) (b : Word) : (s.setAF v).content b = s.content b := State.content_eq_of_mem (by simp) b
@[simp] theorem State.content_setBc (s : State) (v : Word) (b : Word) : (s.setBc v).content b = s.content b := State.content_eq_of_mem (by simp) b
@[simp] theorem State.content_setDe (s : State) (v : Word) (b : Word) : (s.setDe v).content b = s.content b := State.content_eq_of_mem (by simp) b
@[simp] theorem State.content_setHl (s : State) (v : Word) (b : Word) : (s.setHl v).content b = s.content b := State.content_eq_of_mem (by simp) b
@[simp] theorem State.content_setPair (s : State) (dd : Pair) (v : Word) (b : Word) : (s.setPair dd v).content b = s.content b := State.content_eq_of_mem (by simp) b
@[simp] theorem State.content_setStackPair (s : State) (qq : StackPair) (v : Word) (b : Word) : (s.setStackPair qq v).content b = s.content b := State.content_eq_of_mem (by simp) b
@[simp] theorem State.content_setXy (s : State) (xy : IndexReg) (v : Word) (b : Word) : (s.setXy xy v).content b = s.content b := State.content_eq_of_mem (by simp) b
@[simp] theorem State.content_setHalf (s : State) (xy : IndexReg) (h : Half) (v : Byte) (b : Word) : (s.setHalf xy h v).content b = s.content b := State.content_eq_of_mem (by simp) b
@[simp] theorem State.content_setIndexedReg (s : State) (xy : IndexReg) (r : Reg8) (v : Byte) (b : Word) : (s.setIndexedReg xy r v).content b = s.content b := State.content_eq_of_mem (by simp) b
@[simp] theorem State.content_setWz (s : State) (v : Word) (b : Word) : (s.setWz v).content b = s.content b := State.content_eq_of_mem (by simp) b
@[simp] theorem State.content_complete (s : State) (t : Nat) (b : Word) : (s.complete t).content b = s.content b := State.content_eq_of_mem (by simp) b
@[simp] theorem State.content_jump (s : State) (v : Word) (b : Word) : (s.jump v).content b = s.content b := State.content_eq_of_mem (by simp) b
@[simp] theorem State.content_rewind (s : State) (b : Word) : s.rewind.content b = s.content b := State.content_eq_of_mem (by simp) b

/-! ### The content of an address through the operations that store two bytes, and through read-modify-write -/

@[simp] theorem State.content_memWrite16 (s : State) (a v b : Word) :
    (s.memWrite16 a v).content b =
      if b = a + 1 ∧ s.memKind b = .ram then hi v else if b = a ∧ s.memKind b = .ram then lo v else s.content b := by
  simp [State.memWrite16]

@[simp] theorem State.content_push16 (s : State) (v b : Word) :
    (s.push16 v).content b =
      if b = s.sp - 1 - 1 ∧ s.memKind b = .ram then lo v
      else if b = s.sp - 1 ∧ s.memKind b = .ram then hi v else s.content b := by
  rw [State.content, State.push16_mem, Memory.read_store, Memory.read_store]
  rfl

@[simp] theorem State.content_modifyAt (s : State) (g : Byte → Byte → Byte × Byte) (a b : Word) :
    (s.modifyAt g a).2.content b =
      if b = a ∧ s.memKind b = .ram then (g (s.peek a) s.main.f).1 else s.content b :=
  State.content_memWrite s a b (g (s.peek a) s.main.f).1

/-- The memory of the reset state is in canonical form. -/
theorem State.wf_reset : State.reset.mem.wf = true := rfl

end Sys2Proof.Machine
end

