-- ==== Sys2Proof/Laws/Ops.lean ====
section
/-! SUPPORT. One lemma per shared operation that says everything it does, cited instead of unfolding the operation; and what a
step can be. -/

namespace Sys2Proof.Machine

/-! ### Stack, words and instruction stream -/

theorem State.push16_eq (s : State) (v : Word) :
    s.push16 v = { s with
      sp := s.sp - 1 - 1
      mem := (s.mem.store s.regions (s.sp - 1) (hi v)).store s.regions (s.sp - 1 - 1) (lo v)
      bus := .memWrite (s.sp - 1 - 1) (lo v) :: .memWrite (s.sp - 1) (hi v) :: s.bus } := rfl

theorem State.pop16_eq (s : State) :
    s.pop16 = (join (s.peekNext s.sp) (s.peek s.sp), { s with
      sp := s.sp + 1 + 1
      bus := .memRead (s.sp + 1) (s.peekNext s.sp) :: .memRead s.sp (s.peek s.sp) :: s.bus }) := rfl

theorem State.memRead16_eq (s : State) (a : Word) :
    s.memRead16 a = (join (s.peekNext a) (s.peek a),
      { s with bus := .memRead (a + 1) (s.peekNext a) :: .memRead a (s.peek a) :: s.bus }) := rfl

theorem State.memWrite16_eq (s : State) (a v : Word) :
    s.memWrite16 a v = { s with
      mem := (s.mem.store s.regions a (lo v)).store s.regions (a + 1) (hi v)
      bus := .memWrite (a + 1) (hi v) :: .memWrite a (lo v) :: s.bus } := rfl

theorem State.fetch8_eq (s : State) :
    s.fetch8 = (s.peek s.pc, { s with pc := s.pc + 1, bus := .memRead s.pc (s.peek s.pc) :: s.bus }) := rfl

theorem State.fetchOp_eq (s : State) :
    s.fetchOp = (s.peek s.pc, { s with
      pc := s.pc + 1
      r := incR s.r
      clk := s.clk + Config.tFetch
      bus := .memRead s.pc (s.peek s.pc) :: s.bus }) := rfl

theorem State.fetchOperands_mem (k : Nat) (s : State) : (State.fetchOperands k s).mem = s.mem := by
  induction k generalizing s with
  | zero => rfl
  | succ k ih => simpa [State.fetchOperands] using ih s.fetch8.2

/-- What fetching operand bytes changes: `PC` and the record of accesses. -/
theorem State.fetchOperands_eq (k : Nat) (s : State) :
    State.fetchOperands k s =
      { s with pc := s.pc + BitVec.ofNat 16 k, bus := (State.fetchOperands k s).bus } := by
  induction k generalizing s with
  | zero => simp [State.fetchOperands]
  | succ k ih =>
    rw [State.fetchOperands, ih s.fetch8.2]
    simp [State.fetch8_eq, BitVec.add_assoc, ← BitVec.ofNat_add, Nat.add_comm]

/-- What fetching an instruction changes: `PC` passes the opcode byte and the operand bytes, `R` counts one opcode fetch, the
clock takes the fetch charge, and the reads are recorded. -/
theorem State.afterFetch_eq (s : State) (i : Instr) :
    s.afterFetch i = { s with
      pc := s.pc + BitVec.ofNat 16 (i.operandBytes + 1)
      r := incR s.r
      clk := s.clk + Config.tFetch
      bus := (s.afterFetch i).bus } := by
  rw [State.afterFetch, State.fetchOperands_eq]
  simp [State.fetchOp_eq, BitVec.add_assoc, ← BitVec.ofNat_add, Nat.add_comm]

/-! ### Operand forms -/

theorem State.modifyAt_eq (s : State) (g : Byte → Byte → Byte × Byte) (a : Word) :
    s.modifyAt g a = ((g (s.peek a) s.main.f).1, { s with
      main := { s.main with f := (g (s.peek a) s.main.f).2 }
      mem := s.mem.store s.regions a (g (s.peek a) s.main.f).1
      bus := .memWrite a (g (s.peek a) s.main.f).1 :: .memRead a (s.peek a) :: s.bus }) := rfl

theorem State.accumulateAt_eq (s : State) (op : AluOp) (a : Word) :
    s.accumulateAt op a = { s with
      main := { s.main with
        a := (alu8 op s.main.a (s.peek a) s.main.f).1
        f := (alu8 op s.main.a (s.peek a) s.main.f).2 }
      bus := .memRead a (s.peek a) :: s.bus } := rfl

theorem State.modifyReg_eq (s : State) (g : Byte → Byte → Byte × Byte) (r : Reg8) :
    s.modifyReg g r = (s.setReg r (g (s.reg r) s.main.f).1).setF (g (s.reg r) s.main.f).2 := rfl

/-! ### Stored bytes -/

theorem State.stores_one {s t : State} {a : Word} {v : Byte} (h : t.mem = s.mem.store s.regions a v) :
    s.stores t [(a, v)] := by
  intro b
  rw [State.content, h, Memory.read_store, State.memKind]
  by_cases hb : b = a
  · subst hb
    by_cases hk : memKindIn s.regions b = .ram <;> simp [hk, State.content]
  · simp [hb, Ne.symm hb, State.content]

theorem State.stores_two {s t : State} {a a' : Word} {v v' : Byte}
    (h : t.mem = (s.mem.store s.regions a' v').store s.regions a v) : s.stores t [(a, v), (a', v')] := by
  intro b
  rw [State.content, h, Memory.read_store, Memory.read_store, State.memKind]
  by_cases hk : memKindIn s.regions b = .ram
  · by_cases hb : b = a
    · subst hb; simp [hk]
    · by_cases hb' : b = a'
      · subst hb'; simp [hk, hb, Ne.symm hb]
      · simp [hk, hb, Ne.symm hb, hb', Ne.symm hb', State.content]
  · simp [hk, State.content]

/-- Storing nothing. -/
theorem State.stores_nil {s t : State} (h : t.mem = s.mem) : s.stores t [] := State.content_eq_of_mem h

/-! ### Reads one after another -/

theorem State.answers_cons (s : State) (a : Word) (b : Byte) (bs : List Byte) :
    s.answers a (b :: bs) = true ↔ s.peek a = b ∧ State.answers (s.record (.memRead a b)) (a + 1) bs = true := by
  simp [State.answers]

/-- Reads are answered alike in two states that agree on plain memory, the memory map, the platform and the accesses so far. -/
theorem State.answers_congr {s t : State} (hm : t.mem = s.mem) (hr : t.regions = s.regions) (hp : t.platform = s.platform)
    (hb : t.bus = s.bus) (a : Word) (bs : List Byte) : t.answers a bs = s.answers a bs := by
  induction bs generalizing s t a with
  | nil => rfl
  | cons b bs ih =>
    simp only [State.answers, State.peek_eq_of hm hr hp hb]
    rw [ih (s := s.record (.memRead a b)) (t := t.record (.memRead a b)) hm hr hp (by simp [hb])]

/-- The first answers of a longer sequence. -/
theorem State.answers_of_append {s : State} {a : Word} {bs cs : List Byte} (h : s.answers a (bs ++ cs) = true) :
    s.answers a bs = true := by
  induction bs generalizing s a with
  | nil => rfl
  | cons b bs ih =>
    rw [List.cons_append, State.answers_cons] at h
    exact (State.answers_cons s a b bs).2 ⟨h.1, ih h.2⟩

/-- Where plain memory holds the bytes, reads are answered with them. -/
theorem State.answers_of_content {s : State} {a : Word} {bs : List Byte}
    (hk : ∀ k, k < bs.length → s.memKind (a + BitVec.ofNat 16 k) ≠ .device)
    (hc : ∀ k, (h : k < bs.length) → s.content (a + BitVec.ofNat 16 k) = bs[k]) : s.answers a bs = true := by
  induction bs generalizing s a with
  | nil => rfl
  | cons b bs ih =>
    have h0 := hc 0 (by simp)
    have k0 := hk 0 (by simp)
    simp only [BitVec.add_zero, List.getElem_cons_zero] at h0 k0
    refine (State.answers_cons s a b bs).2 ⟨(State.peek_of_plain k0).trans h0, ih (fun k hl => ?_) (fun k hl => ?_)⟩
    · have := hk (k + 1) (by simpa using hl)
      rwa [Nat.add_comm k 1, BitVec.ofNat_add, ← BitVec.add_assoc] at this
    · have := hc (k + 1) (by simpa using hl)
      rw [List.getElem_cons_succ] at this
      rw [← this, Nat.add_comm k 1, BitVec.ofNat_add, ← BitVec.add_assoc]
      rfl

/-- The instruction the next fetch step dispatches, when the reads from `PC` on are answered with these bytes. -/
theorem State.nextInstr_eq {s : State} {op a b : Byte} (h : s.answers s.pc [op, a, b] = true) :
    s.nextInstr = decodeSlot s.table op a b := by
  rw [State.answers_cons, State.answers_cons, State.answers_cons] at h
  obtain ⟨rfl, rfl, rfl, -⟩ := h
  rfl

theorem sub_one_sub_one (w : Word) : w - 1 - 1 = w - 2 := by bv_omega

theorem add_one_add_one (w : Word) : w + 1 + 1 = w + 2 := by bv_omega

/-! ### Refreshes and runs -/

theorem incR_eq (r : Byte) : incR r = refreshed r 1 := by
  simp only [incR, refreshed]; congr 2

theorem and_low7_congr {x y : Nat} (h : x % 128 = y % 128) :
    BitVec.ofNat 8 x &&& 0x7F#8 = BitVec.ofNat 8 y &&& 0x7F#8 := by
  apply BitVec.eq_of_toNat_eq
  rw [BitVec.toNat_and, BitVec.toNat_and]
  simp only [BitVec.toNat_ofNat]
  rw [show 127 % 2 ^ 8 = 2 ^ 7 - 1 from rfl, Nat.and_two_pow_sub_one_eq_mod, Nat.and_two_pow_sub_one_eq_mod]
  omega

theorem refreshed_zero (r : Byte) : refreshed r 0 = r := by
  unfold refreshed
  apply byte_ext <;> simp

theorem refreshed_top (r : Byte) (n : Nat) : refreshed r n &&& 0x80#8 = r &&& 0x80#8 := by
  unfold refreshed
  apply byte_ext <;> simp

theorem refreshed_toNat_mod (r : Byte) (n : Nat) : (refreshed r n).toNat % 128 = (r.toNat + n) % 128 := by
  unfold refreshed
  rw [BitVec.toNat_or, BitVec.toNat_and, BitVec.toNat_and, show 128 = 2 ^ 7 from rfl, Nat.or_mod_two_pow,
    Nat.and_mod_two_pow, Nat.and_mod_two_pow]
  simp
  rw [show 127 = 2 ^ 7 - 1 from rfl, Nat.and_two_pow_sub_one_eq_mod]
  omega

theorem refreshed_add (r : Byte) (m n : Nat) : refreshed (refreshed r m) n = refreshed r (m + n) := by
  show (refreshed r m &&& 0x80#8) ||| (BitVec.ofNat 8 ((refreshed r m).toNat + n) &&& 0x7F#8) =
    (r &&& 0x80#8) ||| (BitVec.ofNat 8 (r.toNat + (m + n)) &&& 0x7F#8)
  rw [refreshed_top]
  congr 1
  apply and_low7_congr
  have h := refreshed_toNat_mod r m
  omega

theorem run_succ (n : Nat) (s : State) :
    run (n + 1) s = match step s with
      | .next t => run n t
      | .fault x => .fault x
      | .refused x => .refused x := rfl

/-! ### The host -/

theorem State.midInstruction_iff (s : State) : s.midInstruction = true ↔ s.prefixPending := by
  unfold State.midInstruction State.prefixPending
  cases s.indexMode <;> simp

/-- What the host may do between two instructions: accepted exactly then. -/
theorem State.betweenInstructions_eq_some {s t u : State} :
    s.betweenInstructions t = some u ↔ ¬ s.prefixPending ∧ t = u := by
  rw [← State.midInstruction_iff, State.betweenInstructions]
  cases s.midInstruction <;> simp

/-! ### Signals and steps -/

theorem State.enterSignal_eq (s : State) (iff2 : Bool) :
    s.enterSignal iff2 = State.push16 { s with
      pc := if s.halted then s.pc + 1 else s.pc
      halted := false
      iff1 := false
      iff2 := iff2 } (if s.halted then s.pc + 1 else s.pc) := by
  obtain ⟨⟩ := s
  rename_i halted _ _ _ _ _ _ _ _ _ _ _ _ _
  cases halted <;> rfl

/-- A step, test by test (R110). -/
theorem step_eq (s : State) :
    step s =
      if s.resetReq then .next (State.resetService { s with intBlocked := false })
      else if s.nmiReq then .next (State.nmiService { s with intBlocked := false })
      else if s.acceptsInt then .next (State.intService { s with intBlocked := false })
      else if s.halted then .next (State.haltedStep { s with intBlocked := false })
      else State.fetchStep { s with intBlocked := false } := by
  unfold step State.signalStep
  cases s.resetReq <;> cases s.nmiReq <;> cases s.acceptsInt <;> cases s.halted <;> rfl

/-- What a step can be: one of the three signals, a halted step or a fetch step, with `INT_BLOCKED` read and cleared. -/
theorem step_cases {s : State} {o : Host.Outcome State Fault Refusal} (h : step s = o) :
    (s.resetReq = true ∧ o = .next (State.resetService { s with intBlocked := false })) ∨
    (s.resetReq = false ∧ s.nmiReq = true ∧ o = .next (State.nmiService { s with intBlocked := false })) ∨
    (s.resetReq = false ∧ s.nmiReq = false ∧ s.acceptsInt = true ∧
      o = .next (State.intService { s with intBlocked := false })) ∨
    (s.resetReq = false ∧ s.nmiReq = false ∧ s.acceptsInt = false ∧ s.halted = true ∧
      o = .next (State.haltedStep { s with intBlocked := false })) ∨
    (s.Fetches ∧ o = State.fetchStep { s with intBlocked := false }) := by
  subst h
  rw [step_eq]
  cases hr : s.resetReq with
  | true => exact .inl ⟨rfl, rfl⟩
  | false =>
    cases hn : s.nmiReq with
    | true => exact .inr (.inl ⟨rfl, rfl, rfl⟩)
    | false =>
      cases hi : s.acceptsInt with
      | true => exact .inr (.inr (.inl ⟨rfl, rfl, rfl, rfl⟩))
      | false =>
        cases hh : s.halted with
        | true => exact .inr (.inr (.inr (.inl ⟨rfl, rfl, rfl, rfl, rfl⟩)))
        | false => exact .inr (.inr (.inr (.inr ⟨⟨hr, hn, hi, hh⟩, rfl⟩)))

end Sys2Proof.Machine
end

