-- ==== Sys2Proof/Laws/PerInstr.lean ====
section
/-! SUPPORT. Statements made per instruction: the family `EncodedLength` says that the bytes the encoder gives for an
instruction are its opcode byte and exactly its operand bytes (30_encoding.md R103). -/

namespace Sys2Proof.Laws.EncodedLength

/-- What the family says of an instruction. -/
def Statement (i : Instr) : Prop := i.wf = true → (encodeSlot i).length = i.operandBytes + 1

/-- For the two rows that hand over to another table, by recursion into the instruction they hold. -/
theorem of_handler (i : Instr) : Statement i := by
  induction i with
  | indexedBit xy i ih =>
    intro h
    have h' : (decide (i.table = .indexedBit xy) && i.wf) = true := h
    rw [Bool.and_eq_true, decide_eq_true_eq] at h'
    have hl : (encodeSlot i).length = i.operandBytes + 1 := ih h'.2
    have ho : i.operandBytes = 1 := by
      cases i <;> first | rfl | exact absurd h'.1 (by intro h; cases h)
    show (0xCB :: encodeSlot i).length = 2 + 1
    rw [List.length_cons, hl, ho]
  | xyStandard xy i ih =>
    intro h
    have h' : ((decide (i.table = .standard) && !i.replacedByIndex) && i.wf) = true := h
    rw [Bool.and_eq_true] at h'
    exact ih h'.2
  | _ => exact fun _ => rfl

theorem nop : Statement .nop := fun _ => rfl
theorem exAfAf : Statement .exAfAf := fun _ => rfl
theorem djnz (e : Byte) : Statement (.djnz e) := fun _ => rfl
theorem jr (e : Byte) : Statement (.jr e) := fun _ => rfl
theorem jrCc (cc : Cond) (e : Byte) : Statement (.jrCc cc e) := fun _ => rfl
theorem ldDdNn (dd : Pair) (nn : Word) : Statement (.ldDdNn dd nn) := fun _ => rfl
theorem addHlSs (ss : Pair) : Statement (.addHlSs ss) := fun _ => rfl
theorem ldIndBcA : Statement .ldIndBcA := fun _ => rfl
theorem ldIndDeA : Statement .ldIndDeA := fun _ => rfl
theorem ldIndNnHl (nn : Word) : Statement (.ldIndNnHl nn) := fun _ => rfl
theorem ldIndNnA (nn : Word) : Statement (.ldIndNnA nn) := fun _ => rfl
theorem ldAIndBc : Statement .ldAIndBc := fun _ => rfl
theorem ldAIndDe : Statement .ldAIndDe := fun _ => rfl
theorem ldHlIndNn (nn : Word) : Statement (.ldHlIndNn nn) := fun _ => rfl
theorem ldAIndNn (nn : Word) : Statement (.ldAIndNn nn) := fun _ => rfl
theorem incSs (ss : Pair) : Statement (.incSs ss) := fun _ => rfl
theorem decSs (ss : Pair) : Statement (.decSs ss) := fun _ => rfl
theorem incR (r : Reg8) : Statement (.incR r) := fun _ => rfl
theorem incIndHl : Statement .incIndHl := fun _ => rfl
theorem decR (r : Reg8) : Statement (.decR r) := fun _ => rfl
theorem decIndHl : Statement .decIndHl := fun _ => rfl
theorem ldRN (r : Reg8) (n : Byte) : Statement (.ldRN r n) := fun _ => rfl
theorem ldIndHlN (n : Byte) : Statement (.ldIndHlN n) := fun _ => rfl
theorem rlca : Statement .rlca := fun _ => rfl
theorem rrca : Statement .rrca := fun _ => rfl
theorem rla : Statement .rla := fun _ => rfl
theorem rra : Statement .rra := fun _ => rfl
theorem daa : Statement .daa := fun _ => rfl
theorem cpl : Statement .cpl := fun _ => rfl
theorem scf : Statement .scf := fun _ => rfl
theorem ccf : Statement .ccf := fun _ => rfl
theorem halt : Statement .halt := fun _ => rfl
theorem ldIndHlR (r : Reg8) : Statement (.ldIndHlR r) := fun _ => rfl
theorem ldRIndHl (r : Reg8) : Statement (.ldRIndHl r) := fun _ => rfl
theorem ldRR (y : Reg8) (z : Reg8) : Statement (.ldRR y z) := fun _ => rfl
theorem addR (r : Reg8) : Statement (.addR r) := fun _ => rfl
theorem addIndHl : Statement .addIndHl := fun _ => rfl
theorem adcR (r : Reg8) : Statement (.adcR r) := fun _ => rfl
theorem adcIndHl : Statement .adcIndHl := fun _ => rfl
theorem subR (r : Reg8) : Statement (.subR r) := fun _ => rfl
theorem subIndHl : Statement .subIndHl := fun _ => rfl
theorem sbcR (r : Reg8) : Statement (.sbcR r) := fun _ => rfl
theorem sbcIndHl : Statement .sbcIndHl := fun _ => rfl
theorem andR (r : Reg8) : Statement (.andR r) := fun _ => rfl
theorem andIndHl : Statement .andIndHl := fun _ => rfl
theorem xorR (r : Reg8) : Statement (.xorR r) := fun _ => rfl
theorem xorIndHl : Statement .xorIndHl := fun _ => rfl
theorem orR (r : Reg8) : Statement (.orR r) := fun _ => rfl
theorem orIndHl : Statement .orIndHl := fun _ => rfl
theorem cpR (r : Reg8) : Statement (.cpR r) := fun _ => rfl
theorem cpIndHl : Statement .cpIndHl := fun _ => rfl
theorem retCc (cc : Cond) : Statement (.retCc cc) := fun _ => rfl
theorem popQq (qq : StackPair) : Statement (.popQq qq) := fun _ => rfl
theorem ret : Statement .ret := fun _ => rfl
theorem exx : Statement .exx := fun _ => rfl
theorem jpIndHl : Statement .jpIndHl := fun _ => rfl
theorem ldSpHl : Statement .ldSpHl := fun _ => rfl
theorem jpCcNn (cc : Cond) (nn : Word) : Statement (.jpCcNn cc nn) := fun _ => rfl
theorem jpNn (nn : Word) : Statement (.jpNn nn) := fun _ => rfl
theorem prefixCb : Statement .prefixCb := fun _ => rfl
theorem outIndNA (n : Byte) : Statement (.outIndNA n) := fun _ => rfl
theorem inAIndN (n : Byte) : Statement (.inAIndN n) := fun _ => rfl
theorem exIndSpHl : Statement .exIndSpHl := fun _ => rfl
theorem exDeHl : Statement .exDeHl := fun _ => rfl
theorem di : Statement .di := fun _ => rfl
theorem ei : Statement .ei := fun _ => rfl
theorem callCcNn (cc : Cond) (nn : Word) : Statement (.callCcNn cc nn) := fun _ => rfl
theorem pushQq (qq : StackPair) : Statement (.pushQq qq) := fun _ => rfl
theorem callNn (nn : Word) : Statement (.callNn nn) := fun _ => rfl
theorem prefixDd : Statement .prefixDd := fun _ => rfl
theorem prefixEd : Statement .prefixEd := fun _ => rfl
theorem prefixFd : Statement .prefixFd := fun _ => rfl
theorem addN (n : Byte) : Statement (.addN n) := fun _ => rfl
theorem adcN (n : Byte) : Statement (.adcN n) := fun _ => rfl
theorem subN (n : Byte) : Statement (.subN n) := fun _ => rfl
theorem sbcN (n : Byte) : Statement (.sbcN n) := fun _ => rfl
theorem andN (n : Byte) : Statement (.andN n) := fun _ => rfl
theorem xorN (n : Byte) : Statement (.xorN n) := fun _ => rfl
theorem orN (n : Byte) : Statement (.orN n) := fun _ => rfl
theorem cpN (n : Byte) : Statement (.cpN n) := fun _ => rfl
theorem rst (p : BitVec 3) : Statement (.rst p) := fun _ => rfl
theorem rlcR (r : Reg8) : Statement (.rlcR r) := fun _ => rfl
theorem rlcIndHl : Statement .rlcIndHl := fun _ => rfl
theorem rrcR (r : Reg8) : Statement (.rrcR r) := fun _ => rfl
theorem rrcIndHl : Statement .rrcIndHl := fun _ => rfl
theorem rlR (r : Reg8) : Statement (.rlR r) := fun _ => rfl
theorem rlIndHl : Statement .rlIndHl := fun _ => rfl
theorem rrR (r : Reg8) : Statement (.rrR r) := fun _ => rfl
theorem rrIndHl : Statement .rrIndHl := fun _ => rfl
theorem slaR (r : Reg8) : Statement (.slaR r) := fun _ => rfl
theorem slaIndHl : Statement .slaIndHl := fun _ => rfl
theorem sraR (r : Reg8) : Statement (.sraR r) := fun _ => rfl
theorem sraIndHl : Statement .sraIndHl := fun _ => rfl
theorem sllR (r : Reg8) : Statement (.sllR r) := fun _ => rfl
theorem sllIndHl : Statement .sllIndHl := fun _ => rfl
theorem srlR (r : Reg8) : Statement (.srlR r) := fun _ => rfl
theorem srlIndHl : Statement .srlIndHl := fun _ => rfl
theorem bitR (b : BitVec 3) (r : Reg8) : Statement (.bitR b r) := fun _ => rfl
theorem bitIndHl (b : BitVec 3) : Statement (.bitIndHl b) := fun _ => rfl
theorem resR (b : BitVec 3) (r : Reg8) : Statement (.resR b r) := fun _ => rfl
theorem resIndHl (b : BitVec 3) : Statement (.resIndHl b) := fun _ => rfl
theorem setR (b : BitVec 3) (r : Reg8) : Statement (.setR b r) := fun _ => rfl
theorem setIndHl (b : BitVec 3) : Statement (.setIndHl b) := fun _ => rfl
theorem inRIndC (r : Reg8) : Statement (.inRIndC r) := fun _ => rfl
theorem inIndC : Statement .inIndC := fun _ => rfl
theorem outIndCR (r : Reg8) : Statement (.outIndCR r) := fun _ => rfl
theorem outIndC0 : Statement .outIndC0 := fun _ => rfl
theorem sbcHlSs (ss : Pair) : Statement (.sbcHlSs ss) := fun _ => rfl
theorem adcHlSs (ss : Pair) : Statement (.adcHlSs ss) := fun _ => rfl
theorem ldIndNnDd (dd : Pair) (nn : Word) : Statement (.ldIndNnDd dd nn) := fun _ => rfl
theorem ldDdIndNn (dd : Pair) (nn : Word) : Statement (.ldDdIndNn dd nn) := fun _ => rfl
theorem neg (y : BitVec 3) : Statement (.neg y) := fun _ => rfl
theorem retn (y : BitVec 3) : Statement (.retn y) := fun _ => rfl
theorem reti : Statement .reti := fun _ => rfl
theorem im0 (u : Bool) (v : Bool) : Statement (.im0 u v) := fun _ => rfl
theorem im1 (u : Bool) : Statement (.im1 u) := fun _ => rfl
theorem im2 (u : Bool) : Statement (.im2 u) := fun _ => rfl
theorem ldIA : Statement .ldIA := fun _ => rfl
theorem ldRA : Statement .ldRA := fun _ => rfl
theorem ldAI : Statement .ldAI := fun _ => rfl
theorem ldAR : Statement .ldAR := fun _ => rfl
theorem rrd : Statement .rrd := fun _ => rfl
theorem rld : Statement .rld := fun _ => rfl
theorem ldi : Statement .ldi := fun _ => rfl
theorem cpi : Statement .cpi := fun _ => rfl
theorem ini : Statement .ini := fun _ => rfl
theorem outi : Statement .outi := fun _ => rfl
theorem ldd : Statement .ldd := fun _ => rfl
theorem cpd : Statement .cpd := fun _ => rfl
theorem ind : Statement .ind := fun _ => rfl
theorem outd : Statement .outd := fun _ => rfl
theorem ldir : Statement .ldir := fun _ => rfl
theorem cpir : Statement .cpir := fun _ => rfl
theorem inir : Statement .inir := fun _ => rfl
theorem otir : Statement .otir := fun _ => rfl
theorem lddr : Statement .lddr := fun _ => rfl
theorem cpdr : Statement .cpdr := fun _ => rfl
theorem indr : Statement .indr := fun _ => rfl
theorem otdr : Statement .otdr := fun _ => rfl
theorem edNop (op : Byte) : Statement (.edNop op) := fun _ => rfl
theorem addXyPp (xy : IndexReg) (pp : IndexedPair) : Statement (.addXyPp xy pp) := fun _ => rfl
theorem ldXyNn (xy : IndexReg) (nn : Word) : Statement (.ldXyNn xy nn) := fun _ => rfl
theorem ldIndNnXy (xy : IndexReg) (nn : Word) : Statement (.ldIndNnXy xy nn) := fun _ => rfl
theorem ldXyIndNn (xy : IndexReg) (nn : Word) : Statement (.ldXyIndNn xy nn) := fun _ => rfl
theorem incXy (xy : IndexReg) : Statement (.incXy xy) := fun _ => rfl
theorem decXy (xy : IndexReg) : Statement (.decXy xy) := fun _ => rfl
theorem incXyHalf (xy : IndexReg) (h : Half) : Statement (.incXyHalf xy h) := fun _ => rfl
theorem decXyHalf (xy : IndexReg) (h : Half) : Statement (.decXyHalf xy h) := fun _ => rfl
theorem ldXyHalfN (xy : IndexReg) (h : Half) (n : Byte) : Statement (.ldXyHalfN xy h n) := fun _ => rfl
theorem incIndXy (xy : IndexReg) (d : Byte) : Statement (.incIndXy xy d) := fun _ => rfl
theorem decIndXy (xy : IndexReg) (d : Byte) : Statement (.decIndXy xy d) := fun _ => rfl
theorem ldIndXyN (xy : IndexReg) (d : Byte) (n : Byte) : Statement (.ldIndXyN xy d n) := fun _ => rfl
theorem ldRIndXy (xy : IndexReg) (r : Reg8) (d : Byte) : Statement (.ldRIndXy xy r d) := fun _ => rfl
theorem ldIndXyR (xy : IndexReg) (d : Byte) (r : Reg8) : Statement (.ldIndXyR xy d r) := fun _ => rfl
theorem ldRRXy (xy : IndexReg) (y : Reg8) (z : Reg8) : Statement (.ldRRXy xy y z) := fun _ => rfl
theorem addXyHalf (xy : IndexReg) (h : Half) : Statement (.addXyHalf xy h) := fun _ => rfl
theorem addIndXy (xy : IndexReg) (d : Byte) : Statement (.addIndXy xy d) := fun _ => rfl
theorem adcXyHalf (xy : IndexReg) (h : Half) : Statement (.adcXyHalf xy h) := fun _ => rfl
theorem adcIndXy (xy : IndexReg) (d : Byte) : Statement (.adcIndXy xy d) := fun _ => rfl
theorem subXyHalf (xy : IndexReg) (h : Half) : Statement (.subXyHalf xy h) := fun _ => rfl
theorem subIndXy (xy : IndexReg) (d : Byte) : Statement (.subIndXy xy d) := fun _ => rfl
theorem sbcXyHalf (xy : IndexReg) (h : Half) : Statement (.sbcXyHalf xy h) := fun _ => rfl
theorem sbcIndXy (xy : IndexReg) (d : Byte) : Statement (.sbcIndXy xy d) := fun _ => rfl
theorem andXyHalf (xy : IndexReg) (h : Half) : Statement (.andXyHalf xy h) := fun _ => rfl
theorem andIndXy (xy : IndexReg) (d : Byte) : Statement (.andIndXy xy d) := fun _ => rfl
theorem xorXyHalf (xy : IndexReg) (h : Half) : Statement (.xorXyHalf xy h) := fun _ => rfl
theorem xorIndXy (xy : IndexReg) (d : Byte) : Statement (.xorIndXy xy d) := fun _ => rfl
theorem orXyHalf (xy : IndexReg) (h : Half) : Statement (.orXyHalf xy h) := fun _ => rfl
theorem orIndXy (xy : IndexReg) (d : Byte) : Statement (.orIndXy xy d) := fun _ => rfl
theorem cpXyHalf (xy : IndexReg) (h : Half) : Statement (.cpXyHalf xy h) := fun _ => rfl
theorem cpIndXy (xy : IndexReg) (d : Byte) : Statement (.cpIndXy xy d) := fun _ => rfl
theorem indexedBit (xy : IndexReg) (i : Instr) : Statement (.indexedBit xy i) := of_handler _
theorem popXy (xy : IndexReg) : Statement (.popXy xy) := fun _ => rfl
theorem pushXy (xy : IndexReg) : Statement (.pushXy xy) := fun _ => rfl
theorem exIndSpXy (xy : IndexReg) : Statement (.exIndSpXy xy) := fun _ => rfl
theorem jpIndXy (xy : IndexReg) : Statement (.jpIndXy xy) := fun _ => rfl
theorem ldSpXy (xy : IndexReg) : Statement (.ldSpXy xy) := fun _ => rfl
theorem xyPrefixDd (xy : IndexReg) : Statement (.xyPrefixDd xy) := fun _ => rfl
theorem xyPrefixFd (xy : IndexReg) : Statement (.xyPrefixFd xy) := fun _ => rfl
theorem xyPrefixEd (xy : IndexReg) : Statement (.xyPrefixEd xy) := fun _ => rfl
theorem xyStandard (xy : IndexReg) (i : Instr) : Statement (.xyStandard xy i) := of_handler _
theorem rlcIndXy (xy : IndexReg) (d : Byte) : Statement (.rlcIndXy xy d) := fun _ => rfl
theorem rlcIndXyR (xy : IndexReg) (d : Byte) (r : Reg8) : Statement (.rlcIndXyR xy d r) := fun _ => rfl
theorem rrcIndXy (xy : IndexReg) (d : Byte) : Statement (.rrcIndXy xy d) := fun _ => rfl
theorem rrcIndXyR (xy : IndexReg) (d : Byte) (r : Reg8) : Statement (.rrcIndXyR xy d r) := fun _ => rfl
theorem rlIndXy (xy : IndexReg) (d : Byte) : Statement (.rlIndXy xy d) := fun _ => rfl
theorem rlIndXyR (xy : IndexReg) (d : Byte) (r : Reg8) : Statement (.rlIndXyR xy d r) := fun _ => rfl
theorem rrIndXy (xy : IndexReg) (d : Byte) : Statement (.rrIndXy xy d) := fun _ => rfl
theorem rrIndXyR (xy : IndexReg) (d : Byte) (r : Reg8) : Statement (.rrIndXyR xy d r) := fun _ => rfl
theorem slaIndXy (xy : IndexReg) (d : Byte) : Statement (.slaIndXy xy d) := fun _ => rfl
theorem slaIndXyR (xy : IndexReg) (d : Byte) (r : Reg8) : Statement (.slaIndXyR xy d r) := fun _ => rfl
theorem sraIndXy (xy : IndexReg) (d : Byte) : Statement (.sraIndXy xy d) := fun _ => rfl
theorem sraIndXyR (xy : IndexReg) (d : Byte) (r : Reg8) : Statement (.sraIndXyR xy d r) := fun _ => rfl
theorem sllIndXy (xy : IndexReg) (d : Byte) : Statement (.sllIndXy xy d) := fun _ => rfl
theorem sllIndXyR (xy : IndexReg) (d : Byte) (r : Reg8) : Statement (.sllIndXyR xy d r) := fun _ => rfl
theorem srlIndXy (xy : IndexReg) (d : Byte) : Statement (.srlIndXy xy d) := fun _ => rfl
theorem srlIndXyR (xy : IndexReg) (d : Byte) (r : Reg8) : Statement (.srlIndXyR xy d r) := fun _ => rfl
theorem bitIndXy (xy : IndexReg) (b : BitVec 3) (d : Byte) (z : BitVec 3) : Statement (.bitIndXy xy b d z) := fun _ => rfl
theorem resIndXy (xy : IndexReg) (b : BitVec 3) (d : Byte) : Statement (.resIndXy xy b d) := fun _ => rfl
theorem resIndXyR (xy : IndexReg) (b : BitVec 3) (d : Byte) (r : Reg8) : Statement (.resIndXyR xy b d r) := fun _ => rfl
theorem setIndXy (xy : IndexReg) (b : BitVec 3) (d : Byte) : Statement (.setIndXy xy b d) := fun _ => rfl
theorem setIndXyR (xy : IndexReg) (b : BitVec 3) (d : Byte) (r : Reg8) : Statement (.setIndXyR xy b d r) := fun _ => rfl

end Sys2Proof.Laws.EncodedLength
end

