-- ==== Sys2Proof/Tests/Slice0.lean ====
section
/-! SUPPORT. Tests of the model, each about one step or one word, with the expected value taken from the spec: the encodings of
30_encoding.md and spec/opcode_table.json, the vectors of 95_test_vectors.md. Then, for every statement that has hypotheses, a
theorem that shows values that meet all of them together. -/

namespace Sys2Proof.Tests

open Sys2Proof Sys2Proof.Machine

/-! ### WellFormed: an ill-formed term for each check -/

/-- `JR cc,e` has no condition `PO` (R384). -/
theorem test_wf_relative_condition : (Instr.jrCc .po 0).wf = false := by decide
/-- Field value 1 is `RETI`, not `RETN` (R392, R393). -/
theorem test_wf_retn_field : (Instr.retn 1).wf = false := by decide
/-- `ED 40` is `IN B,(C)`, no two-byte no-op (R276). -/
theorem test_wf_extended_no_op : (Instr.edNop 0x40).wf = false := by decide
/-- Without a half of the index register the slot is the standard load (R114). -/
theorem test_wf_half_load : (Instr.ldRRXy .ix .b .c).wf = false := by decide
/-- The indexed table hands over to slots of the standard table only (R114). -/
theorem test_wf_standard_table : (Instr.xyStandard .ix (.rlcR .b)).wf = false := by decide
/-- An instruction that the index prefix replaces is no standard slot (R114). -/
theorem test_wf_standard_replaced : (Instr.xyStandard .iy .incIndHl).wf = false := by decide
/-- The slot handed over to is well formed itself. -/
theorem test_wf_standard_inner : (Instr.xyStandard .ix (.jrCc .m 0)).wf = false := by decide
/-- `DD CB` selects an `IX` operation, never an `IY` one (R115). -/
theorem test_wf_indexed_bit_register : (Instr.indexedBit .ix (.rlcIndXy .iy 0)).wf = false := by decide
/-- `DD CB` hands over to the indexed-bit table only (R115). -/
theorem test_wf_indexed_bit_table : (Instr.indexedBit .ix (.rlcR .b)).wf = false := by decide

/-! ### Decoding: one word of every row, written out from its encoding (R100 to R125) -/

/-- Every byte string decodes to the instruction beside it, with nothing left over. -/
def decodesAll (rows : List (List Byte × Instr)) : Bool := rows.all fun p => decide (decodeString none p.1 = .instr p.2 [])

theorem test_decode_standard_00_1 : decodesAll [
      ([0b00000000], .nop), ([0b00001000], .exAfAf), ([0b00010000, 0x85], .djnz 0x85), ([0b00011000, 0x85], .jr 0x85),
      ([0b00110000, 0x85], .jrCc .nc 0x85), ([0b00110001, 0x34, 0x12], .ldDdNn .sp 0x1234), ([0b00011001], .addHlSs .de),
      ([0b00000010], .ldIndBcA), ([0b00010010], .ldIndDeA), ([0b00100010, 0x34, 0x12], .ldIndNnHl 0x1234),
      ([0b00110010, 0x34, 0x12], .ldIndNnA 0x1234), ([0b00001010], .ldAIndBc), ([0b00011010], .ldAIndDe),
      ([0b00101010, 0x34, 0x12], .ldHlIndNn 0x1234), ([0b00111010, 0x34, 0x12], .ldAIndNn 0x1234),
      ([0b00010011], .incSs .de), ([0b00101011], .decSs .hl), ([0b00100100], .incR .h), ([0b00110100], .incIndHl),
      ([0b00101101], .decR .l), ([0b00110101], .decIndHl), ([0b00100110, 0x5A], .ldRN .h 0x5A),
      ([0b00110110, 0x5A], .ldIndHlN 0x5A), ([0b00000111], .rlca)] = true := by decide

theorem test_decode_standard_00_2 : decodesAll [
      ([0b00001111], .rrca), ([0b00010111], .rla), ([0b00011111], .rra), ([0b00100111], .daa), ([0b00101111], .cpl),
      ([0b00110111], .scf), ([0b00111111], .ccf)] = true := by decide

theorem test_decode_standard_01 : decodesAll [
      ([0b01110110], .halt), ([0b01110010], .ldIndHlR .d), ([0b01100110], .ldRIndHl .h), ([0b01001100], .ldRR .c .h)] = true := by decide

theorem test_decode_standard_10 : decodesAll [
      ([0b10000100], .addR .h), ([0b10000110], .addIndHl), ([0b10001101], .adcR .l), ([0b10001110], .adcIndHl),
      ([0b10010100], .subR .h), ([0b10010110], .subIndHl), ([0b10011101], .sbcR .l), ([0b10011110], .sbcIndHl),
      ([0b10100100], .andR .h), ([0b10100110], .andIndHl), ([0b10101101], .xorR .l), ([0b10101110], .xorIndHl),
      ([0b10110100], .orR .h), ([0b10110110], .orIndHl), ([0b10111101], .cpR .l), ([0b10111110], .cpIndHl)] = true := by decide

theorem test_decode_standard_11_1 : decodesAll [
      ([0b11011000], .retCc .c), ([0b11100001], .popQq .hl), ([0b11001001], .ret), ([0b11011001], .exx),
      ([0b11101001], .jpIndHl), ([0b11111001], .ldSpHl), ([0b11101010, 0x34, 0x12], .jpCcNn .pe 0x1234),
      ([0b11000011, 0x34, 0x12], .jpNn 0x1234), ([0b11010011, 0x5A], .outIndNA 0x5A), ([0b11011011, 0x5A], .inAIndN 0x5A),
      ([0b11100011], .exIndSpHl), ([0b11101011], .exDeHl), ([0b11110011], .di), ([0b11111011], .ei),
      ([0b11110100, 0x34, 0x12], .callCcNn .p 0x1234), ([0b11100101], .pushQq .hl),
      ([0b11001101, 0x34, 0x12], .callNn 0x1234), ([0b11000110, 0x5A], .addN 0x5A), ([0b11001110, 0x5A], .adcN 0x5A),
      ([0b11010110, 0x5A], .subN 0x5A), ([0b11011110, 0x5A], .sbcN 0x5A), ([0b11100110, 0x5A], .andN 0x5A),
      ([0b11101110, 0x5A], .xorN 0x5A), ([0b11110110, 0x5A], .orN 0x5A)] = true := by decide

theorem test_decode_standard_11_2 : decodesAll [
      ([0b11111110, 0x5A], .cpN 0x5A), ([0b11010111], .rst 2)] = true := by decide

theorem test_decode_bit : decodesAll [
      ([0xCB, 0b00000101], .rlcR .l), ([0xCB, 0b00000110], .rlcIndHl), ([0xCB, 0b00001100], .rrcR .h),
      ([0xCB, 0b00001110], .rrcIndHl), ([0xCB, 0b00010101], .rlR .l), ([0xCB, 0b00010110], .rlIndHl),
      ([0xCB, 0b00011100], .rrR .h), ([0xCB, 0b00011110], .rrIndHl), ([0xCB, 0b00100101], .slaR .l),
      ([0xCB, 0b00100110], .slaIndHl), ([0xCB, 0b00101100], .sraR .h), ([0xCB, 0b00101110], .sraIndHl),
      ([0xCB, 0b00110101], .sllR .l), ([0xCB, 0b00110110], .sllIndHl), ([0xCB, 0b00111100], .srlR .h),
      ([0xCB, 0b00111110], .srlIndHl), ([0xCB, 0b01110101], .bitR 6 .l), ([0xCB, 0b01011110], .bitIndHl 3),
      ([0xCB, 0b10001100], .resR 1 .h), ([0xCB, 0b10101110], .resIndHl 5), ([0xCB, 0b11110101], .setR 6 .l),
      ([0xCB, 0b11011110], .setIndHl 3)] = true := by decide

theorem test_decode_extended_1 : decodesAll [
      ([0xED, 0b01101000], .inRIndC .l), ([0xED, 0b01110000], .inIndC), ([0xED, 0b01100001], .outIndCR .h),
      ([0xED, 0b01110001], .outIndC0), ([0xED, 0b01110010], .sbcHlSs .sp), ([0xED, 0b01011010], .adcHlSs .de),
      ([0xED, 0b01100011, 0x34, 0x12], .ldIndNnDd .hl 0x1234), ([0xED, 0b01111011, 0x34, 0x12], .ldDdIndNn .sp 0x1234),
      ([0xED, 0b01011100], .neg 3), ([0xED, 0b01111101], .retn 7), ([0xED, 0b01001101], .reti),
      ([0xED, 0b01100110], .im0 true false), ([0xED, 0b01110110], .im1 true), ([0xED, 0b01111110], .im2 true),
      ([0xED, 0b01000111], .ldIA), ([0xED, 0b01001111], .ldRA), ([0xED, 0b01010111], .ldAI), ([0xED, 0b01011111], .ldAR),
      ([0xED, 0b01100111], .rrd), ([0xED, 0b01101111], .rld), ([0xED, 0b10100000], .ldi), ([0xED, 0b10100001], .cpi),
      ([0xED, 0b10100010], .ini), ([0xED, 0b10100011], .outi)] = true := by decide

theorem test_decode_extended_2 : decodesAll [
      ([0xED, 0b10101000], .ldd), ([0xED, 0b10101001], .cpd), ([0xED, 0b10101010], .ind), ([0xED, 0b10101011], .outd),
      ([0xED, 0b10110000], .ldir), ([0xED, 0b10110001], .cpir), ([0xED, 0b10110010], .inir), ([0xED, 0b10110011], .otir),
      ([0xED, 0b10111000], .lddr), ([0xED, 0b10111001], .cpdr), ([0xED, 0b10111010], .indr), ([0xED, 0b10111011], .otdr)] = true := by decide

theorem test_decode_indexed_1 : decodesAll [
      ([0xFD, 0b00111001], .addXyPp .iy .sp), ([0xDD, 0b00100001, 0x34, 0x12], .ldXyNn .ix 0x1234),
      ([0xFD, 0b00100010, 0x34, 0x12], .ldIndNnXy .iy 0x1234), ([0xDD, 0b00101010, 0x34, 0x12], .ldXyIndNn .ix 0x1234),
      ([0xFD, 0b00100011], .incXy .iy), ([0xDD, 0b00101011], .decXy .ix), ([0xFD, 0b00100100], .incXyHalf .iy .high),
      ([0xDD, 0b00100101], .decXyHalf .ix .high), ([0xFD, 0b00101110, 0x5A], .ldXyHalfN .iy .low 0x5A),
      ([0xDD, 0b00110100, 0xFE], .incIndXy .ix 0xFE), ([0xFD, 0b00110101, 0xFE], .decIndXy .iy 0xFE),
      ([0xDD, 0b00110110, 0xFE, 0x5A], .ldIndXyN .ix 0xFE 0x5A), ([0xFD, 0b01011110, 0xFE], .ldRIndXy .iy .e 0xFE),
      ([0xDD, 0b01110101, 0xFE], .ldIndXyR .ix 0xFE .l), ([0xFD, 0b01100001], .ldRRXy .iy .h .c),
      ([0xDD, 0b10000100], .addXyHalf .ix .high), ([0xFD, 0b10000110, 0xFE], .addIndXy .iy 0xFE),
      ([0xDD, 0b10001101], .adcXyHalf .ix .low), ([0xFD, 0b10001110, 0xFE], .adcIndXy .iy 0xFE),
      ([0xDD, 0b10010100], .subXyHalf .ix .high), ([0xFD, 0b10010110, 0xFE], .subIndXy .iy 0xFE),
      ([0xDD, 0b10011101], .sbcXyHalf .ix .low), ([0xFD, 0b10011110, 0xFE], .sbcIndXy .iy 0xFE),
      ([0xDD, 0b10100100], .andXyHalf .ix .high)] = true := by decide

theorem test_decode_indexed_2 : decodesAll [
      ([0xFD, 0b10100110, 0xFE], .andIndXy .iy 0xFE), ([0xDD, 0b10101101], .xorXyHalf .ix .low),
      ([0xFD, 0b10101110, 0xFE], .xorIndXy .iy 0xFE), ([0xDD, 0b10110100], .orXyHalf .ix .high),
      ([0xFD, 0b10110110, 0xFE], .orIndXy .iy 0xFE), ([0xDD, 0b10111101], .cpXyHalf .ix .low),
      ([0xFD, 0b10111110, 0xFE], .cpIndXy .iy 0xFE), ([0xFD, 0b11100001], .popXy .iy), ([0xDD, 0b11100101], .pushXy .ix),
      ([0xFD, 0b11100011], .exIndSpXy .iy), ([0xDD, 0b11101001], .jpIndXy .ix), ([0xFD, 0b11111001], .ldSpXy .iy)] = true := by decide

theorem test_decode_indexedBit : decodesAll [
      ([0xDD, 0xCB, 0xFE, 0b00000110], .indexedBit .ix (.rlcIndXy .ix 0xFE)),
      ([0xFD, 0xCB, 0xFE, 0b00000111], .indexedBit .iy (.rlcIndXyR .iy 0xFE .a)),
      ([0xDD, 0xCB, 0xFE, 0b00001110], .indexedBit .ix (.rrcIndXy .ix 0xFE)),
      ([0xFD, 0xCB, 0xFE, 0b00001010], .indexedBit .iy (.rrcIndXyR .iy 0xFE .d)),
      ([0xDD, 0xCB, 0xFE, 0b00010110], .indexedBit .ix (.rlIndXy .ix 0xFE)),
      ([0xFD, 0xCB, 0xFE, 0b00010111], .indexedBit .iy (.rlIndXyR .iy 0xFE .a)),
      ([0xDD, 0xCB, 0xFE, 0b00011110], .indexedBit .ix (.rrIndXy .ix 0xFE)),
      ([0xFD, 0xCB, 0xFE, 0b00011010], .indexedBit .iy (.rrIndXyR .iy 0xFE .d)),
      ([0xDD, 0xCB, 0xFE, 0b00100110], .indexedBit .ix (.slaIndXy .ix 0xFE)),
      ([0xFD, 0xCB, 0xFE, 0b00100111], .indexedBit .iy (.slaIndXyR .iy 0xFE .a)),
      ([0xDD, 0xCB, 0xFE, 0b00101110], .indexedBit .ix (.sraIndXy .ix 0xFE)),
      ([0xFD, 0xCB, 0xFE, 0b00101010], .indexedBit .iy (.sraIndXyR .iy 0xFE .d)),
      ([0xDD, 0xCB, 0xFE, 0b00110110], .indexedBit .ix (.sllIndXy .ix 0xFE)),
      ([0xFD, 0xCB, 0xFE, 0b00110111], .indexedBit .iy (.sllIndXyR .iy 0xFE .a)),
      ([0xDD, 0xCB, 0xFE, 0b00111110], .indexedBit .ix (.srlIndXy .ix 0xFE)),
      ([0xFD, 0xCB, 0xFE, 0b00111010], .indexedBit .iy (.srlIndXyR .iy 0xFE .d)),
      ([0xDD, 0xCB, 0xFE, 0b01110101], .indexedBit .ix (.bitIndXy .ix 6 0xFE 5)),
      ([0xFD, 0xCB, 0xFE, 0b10011110], .indexedBit .iy (.resIndXy .iy 3 0xFE)),
      ([0xDD, 0xCB, 0xFE, 0b10001100], .indexedBit .ix (.resIndXyR .ix 1 0xFE .h)),
      ([0xFD, 0xCB, 0xFE, 0b11101110], .indexedBit .iy (.setIndXy .iy 5 0xFE)),
      ([0xDD, 0xCB, 0xFE, 0b11110101], .indexedBit .ix (.setIndXyR .ix 6 0xFE .l))] = true := by decide

/-- The prefix bytes, each in the table it is looked up in (R112, R113, R117). -/
theorem test_decode_prefixes : [decode .standard [0b11001011], decode .standard [0b11011101], decode .standard [0b11101101],
      decode .standard [0b11111101], decode (.indexed .ix) [0b11011101], decode (.indexed .iy) [0b11111101],
      decode (.indexed .ix) [0b11101101]] =
    [Instr.prefixCb, .prefixDd, .prefixEd, .prefixFd, .xyPrefixDd .ix, .xyPrefixFd .iy, .xyPrefixEd .ix].map
      (Decoded.instr · []) := by decide

/-- The no-ops of the extended table at the ends of their ranges, and standard slots after an index prefix (R114, R276). -/
theorem test_decode_other_slots : decodesAll [
      ([0xED, 0x00], .edNop 0x00), ([0xED, 0x3F], .edNop 0x3F), ([0xED, 0x77], .edNop 0x77), ([0xED, 0x7F], .edNop 0x7F),
      ([0xED, 0x80], .edNop 0x80), ([0xED, 0x9F], .edNop 0x9F), ([0xED, 0xA4], .edNop 0xA4), ([0xED, 0xAF], .edNop 0xAF),
      ([0xED, 0xB7], .edNop 0xB7), ([0xED, 0xBC], .edNop 0xBC), ([0xED, 0xFF], .edNop 0xFF),
      ([0xDD, 0xEB], .xyStandard .ix .exDeHl), ([0xFD, 0x76], .xyStandard .iy .halt),
      ([0xDD, 0x06, 0x5A], .xyStandard .ix (.ldRN .b 0x5A))] = true := by decide

/-- A string that ends inside an instruction is rejected by name. -/
theorem test_decode_truncated : decodeString none [0xDD, 0xCB, 0x05] = .truncated := by decide

/-- The encoder gives the bytes of the spec's own example (S1). -/
theorem test_encode : encode (.ldXyNn .ix 0x1101) = [0xDD, 0x21, 0x01, 0x11] := by decide

/-- The word of a table row, its operand bytes zero. -/
theorem test_decode_table_word : decodeTableWord 8 0x3E = some (.ldRN .a 0x00) := by decide
/-- A word with its prefix byte first. -/
theorem test_decode_table_word_prefixed : decodeTableWord 16 0x06CB = some .rlcIndHl := by decide

/-! ### One step of an instruction, by the vectors of 95_test_vectors.md (named beside each) -/

/-- A small machine: code at 0x0000, registers, other memory cells. -/
def cpu (bytes : List Byte) (a f : Byte := 0) (bc de hl : Word := 0) (cells : Memory := []) : State :=
  State.placeBytes { State.reset with
    main := { a := a, f := f, b := hi bc, c := lo bc, d := hi de, e := lo de, h := hi hl, l := lo hl }
    mem := cells } 0 bytes

/-- A pending index prefix. -/
def State.after (s : State) (xy : IndexReg) : State := { s with indexMode := some xy, intBlocked := true }

/-- A pending table prefix. -/
def State.inTable (s : State) (m : PrefixMode) : State := { s with prefixMode := m, intBlocked := true }

/-- One step gives a state with this property. -/
def steps (s : State) (p : State → Bool) : Bool :=
  match step s with
  | .next t => p t
  | _ => false

/-- The main registers of the state with these values. -/
def shows (t : State) (a f : Byte) (bc de hl : Word) : Bool :=
  t.main.a = a && t.main.f = f && t.bc = bc && t.de = de && t.hl = hl

-- loads: V40-1, V40-4, V40-8, V40-12, V40-13, V40-16, V40-18, V40-22, V41-6, V41-10, V41-17, V41-20
theorem test_ld_r_r : steps (cpu [0x78] (f := 0xFF) (bc := 0x5A00)) (fun t => shows t 0x5A 0xFF 0x5A00 0 0 && t.clk = 4) = true := by
  decide
theorem test_ld_hl_r_top : steps { cpu [] (bc := 0x1200) (hl := 0xFFFF) (cells := [(0x100, 0x70)]) with pc := 0x100 } (fun t =>
    t.mem = [(0x100, 0x70), (0xFFFF, 0x12)]) = true := by decide
theorem test_ld_indexed_r_wraps : steps (State.after { cpu [] (a := 0x99) (cells := [(0x100, 0x77), (0x101, 0x05)]) with
    pc := 0x100, ix := 0xFFFE } .ix) (fun t => t.peek 3 = 0x99 && t.wz = 3 && t.pc = 0x102 && t.clk = 15) = true := by decide
theorem test_ld_a_nn_wz : steps { cpu [] (cells := [(0x100, 0x3A), (0x101, 0xFF), (0x102, 0xFF), (0xFFFF, 0x80)]) with
    pc := 0x100, wz := 0x5555 } (fun t => t.main.a = 0x80 && t.wz = 0 && t.clk = 13) = true := by decide
theorem test_ld_bc_a_wz : steps (cpu [0x02] (a := 0x12) (bc := 0x40FF)) (fun t => t.wz = 0x1200 && t.peek 0x40FF = 0x12) = true := by
  decide
theorem test_ld_a_i_flags : steps (State.inTable { cpu [0x57] (a := 0x55) (f := 0x01) with iff2 := true } .extended) (fun t =>
    shows t 0 0x45 0 0 0) = true := by decide
theorem test_ld_a_r_counts : steps (State.inTable { cpu [0x5F] (a := 0x55) with r := 0x7F, iff2 := true } .extended) (fun t =>
    shows t 0 0x44 0 0 0 && t.r = 0) = true := by decide
theorem test_ld_half_half : steps (State.after { cpu [0x6C] with iy := 0x12CD } .iy) (fun t => t.iy = 0x1212) = true := by decide
theorem test_ld_dd_ind_nn : steps (State.inTable (cpu [0x4B, 0x00, 0x50] (cells := [(0x5000, 0x78), (0x5001, 0x56)])) .extended)
    (fun t => t.bc = 0x5678 && t.wz = 0x5001) = true := by decide
theorem test_ld_ind_nn_dd_wraps : steps (State.inTable { cpu [] (de := 0x1234)
    (cells := [(0x100, 0x53), (0x101, 0xFF), (0x102, 0xFF)]) with pc := 0x100 } .extended)
    (fun t => t.peek 0xFFFF = 0x34 && t.peek 0 = 0x12 && t.wz = 0) = true := by decide
theorem test_push_af_wraps : steps { cpu [] (a := 0x12) (f := 0xFF) (cells := [(0x100, 0xF5)]) with pc := 0x100, sp := 1 } (fun t =>
    t.sp = 0xFFFF && t.peek 0 = 0x12 && t.peek 0xFFFF = 0xFF) = true := by decide
theorem test_pop_af_wraps : steps { cpu [0x99] (cells := [(0x100, 0xF1), (0xFFFF, 0xD7)]) with pc := 0x100, sp := 0xFFFF } (fun t =>
    shows t 0x99 0xD7 0 0 0 && t.sp = 1) = true := by decide

-- exchange, transfer, search: V42-2, V42-4, V42-5, V42-8, V42-9, V42-10, V42-14, V42-15, V42-17
theorem test_ex_de_hl_after_prefix : steps (State.after { cpu [0xEB] (de := 0x1111) (hl := 0x2222) with ix := 0x3333 } .ix) (fun t =>
    shows t 0 0 0 0x2222 0x1111 && t.ix = 0x3333) = true := by decide
theorem test_exx_keeps_af : steps { cpu [0xD9] (a := 0x99) (f := 0xFF) (bc := 0x0102) with shadow := { RegSet.zero with b := 0xA1 } }
    (fun t => shows t 0x99 0xFF 0xA100 0 0 && t.shadow.b = 0x01 && t.shadow.c = 0x02) = true := by decide
theorem test_ex_sp_hl : steps { cpu [0xE3] (hl := 0x1234) (cells := [(0x8000, 0x78), (0x8001, 0x56)]) with sp := 0x8000 } (fun t =>
    t.hl = 0x5678 && t.wz = 0x5678 && t.peek 0x8001 = 0x12 && t.peek 0x8000 = 0x34 && t.clk = 19) = true := by decide
theorem test_ldi_last : steps (State.inTable (cpu [0xA0] (bc := 1) (de := 0x5000) (hl := 0x4000) (cells := [(0x4000, 0x08)]))
    .extended) (fun t => shows t 0 0x08 0 0x5001 0x4001 && t.peek 0x5000 = 0x08) = true := by decide
theorem test_ldd_wraps : steps (State.inTable { cpu [0x77] (f := 0x01) (cells := [(0x100, 0xA8)]) with pc := 0x100 } .extended)
    (fun t => shows t 0 0x25 0xFFFF 0xFFFF 0xFFFF) = true := by decide
theorem test_ldir_repeats : steps (State.inTable { cpu [] (bc := 2) (de := 0x5000) (hl := 0x4000)
    (cells := [(0x101, 0xB0), (0x4000, 0x11), (0x4001, 0x22)]) with pc := 0x101, wz := 0x5555 } .extended)
    (fun t => shows t 0 0x04 1 0x5001 0x4001 && t.pc = 0x100 && t.wz = 0x101 && t.clk = 17) = true := by decide
theorem test_cpi_flags : steps (State.inTable { cpu [0xA1] (a := 0x10) (bc := 1) (hl := 0x4000) (cells := [(0x4000, 0x01)]) with
    wz := 0x1000 } .extended) (fun t => shows t 0x10 0x3A 0 0 0x4001 && t.wz = 0x1001) = true := by decide
theorem test_cpd_borrow : steps (State.inTable { cpu [0xA9] (bc := 5) (hl := 0x4000) (cells := [(0x4000, 0x01)]) with wz := 0x1000 }
    .extended) (fun t => shows t 0 0xBE 4 0 0x3FFF && t.wz = 0x0FFF) = true := by decide
theorem test_cpir_ends : steps (State.inTable { cpu [] (a := 0x22) (bc := 1) (hl := 0x4000)
    (cells := [(0x101, 0xB1), (0x4000, 0x11)]) with pc := 0x101 } .extended)
    (fun t => shows t 0x22 0x02 0 0 0x4001 && t.pc = 0x102 && t.wz = 1) = true := by decide

-- 8-bit arithmetic: V43-2, V43-5, V43-8, V43-10, V43-12, V43-14, V43-17, V43-18, V43-22, V43-24, V43-28, V43-31
theorem test_add_overflow : steps (cpu [0x80] (a := 0x7F) (bc := 0x0100)) (fun t => shows t 0x80 0x94 0x0100 0 0) = true := by decide
theorem test_adc_memory : steps (cpu [0x8E] (a := 0x0F) (f := 0x01) (hl := 0x4000) (cells := [(0x4000, 0xF0)])) (fun t =>
    shows t 0 0x51 0 0 0x4000) = true := by decide
theorem test_sub_overflow : steps (cpu [0xD6, 0x01] (a := 0x80)) (fun t => shows t 0x7F 0x3E 0 0 0) = true := by decide
theorem test_sbc_a_a : steps (cpu [0x9F] (a := 0x5A) (f := 0x01)) (fun t => shows t 0xFF 0xBB 0 0 0) = true := by decide
theorem test_and_flags : steps (cpu [0xA0] (a := 0xF0) (f := 0x03) (bc := 0x0F00)) (fun t => shows t 0 0x54 0x0F00 0 0) = true := by
  decide
theorem test_xor_flags : steps (cpu [0xAF] (a := 0x5A) (f := 0xFF)) (fun t => shows t 0 0x44 0 0 0) = true := by decide
theorem test_or_flags : steps (cpu [0xF6, 0x80] (a := 0x01)) (fun t => shows t 0x81 0x84 0 0 0) = true := by decide
theorem test_cp_operand_bits : steps (cpu [0xB8] (a := 0x10) (bc := 0x2800)) (fun t => shows t 0x10 0xBB 0x2800 0 0) = true := by decide
theorem test_inc_keeps_carry : steps (cpu [0x3C] (a := 0x7F) (f := 0x01)) (fun t => shows t 0x80 0x95 0 0 0) = true := by decide
theorem test_inc_memory : steps (cpu [0x34] (f := 0x01) (hl := 0x4000) (cells := [(0x4000, 0x0F)])) (fun t =>
    t.main.f = 0x11 && t.peek 0x4000 = 0x10 && t.clk = 11) = true := by decide
theorem test_dec_indexed : steps (State.after { cpu [0x35, 0xFF] (cells := [(0x3FFF, 0x10)]) with ix := 0x4000 } .ix) (fun t =>
    t.main.f = 0x1A && t.peek 0x3FFF = 0x0F && t.wz = 0x3FFF) = true := by decide
theorem test_add_half : steps (State.after { cpu [0x84] (a := 0x01) with ix := 0x0100 } .ix) (fun t => t.main.a = 0x02) = true := by decide

-- control and 16-bit arithmetic: V44-1, V44-3, V44-8, V44-10, V44-13, V44-15, V44-21, V44-23, V44-28, V45-4, V45-7, V45-9, V45-14
theorem test_daa_after_add : steps (cpu [0x27] (a := 0x7D)) (fun t => shows t 0x83 0x90 0 0 0) = true := by decide
theorem test_daa_after_sub : steps (cpu [0x27] (a := 0x00) (f := 0x13)) (fun t => shows t 0x9A 0x9F 0 0 0) = true := by decide
theorem test_cpl : steps (cpu [0x2F] (a := 0x5A) (f := 0xC5)) (fun t => shows t 0xA5 0xF7 0 0 0) = true := by decide
theorem test_neg_overflow : steps (State.inTable (cpu [0x44] (a := 0x80)) .extended) (fun t => shows t 0x80 0x87 0 0 0) = true := by decide
theorem test_ccf : steps (cpu [0x3F] (a := 0x28) (f := 0x01)) (fun t => shows t 0x28 0x38 0 0 0) = true := by decide
theorem test_scf : steps (cpu [0x37] (a := 0xFF)) (fun t => shows t 0xFF 0x29 0 0 0) = true := by decide
theorem test_halt_after_prefix : steps (State.after { cpu [0xDD, 0x76] with pc := 1 } .ix) (fun t => t.halted && t.pc = 1) = true := by
  decide
theorem test_ei_blocks : steps (cpu [0xFB]) (fun t => t.iff1 && t.iff2 && t.intBlocked && t.pc = 1) = true := by decide
theorem test_im_0_second_code : steps (State.inTable { cpu [0x6E] with im := .mode2 } .extended) (fun t => t.im = .mode0) = true := by
  decide
theorem test_add_hl_keeps_s_z_pv : steps { cpu [0x39] (f := 0xFF) (hl := 0x1234) with sp := 0x2800 } (fun t =>
    shows t 0 0xEC 0 0 0x3A34 && t.wz = 0x1235) = true := by decide
theorem test_add_ix_ix : steps (State.after { cpu [0x29] (hl := 0x1111) with ix := 0x4000 } .ix) (fun t =>
    t.ix = 0x8000 && t.hl = 0x1111 && t.wz = 0x4001) = true := by decide
theorem test_adc_hl_overflow : steps (State.inTable (cpu [0x4A] (f := 0x01) (hl := 0x7FFF)) .extended) (fun t =>
    shows t 0 0x94 0 0 0x8000) = true := by decide
theorem test_sbc_hl_overflow : steps (State.inTable (cpu [0x52] (de := 1) (hl := 0x8000)) .extended) (fun t =>
    shows t 0 0x3E 0 1 0x7FFF) = true := by decide

-- rotates and bits: V46-1, V46-5, V46-9, V46-12, V46-13, V46-18, V46-20, V46-21, V46-22, V47-4, V47-7, V47-10, V47-18, V47-20
theorem test_rlca_keeps_s_z_pv : steps (cpu [0x07] (a := 0x81) (f := 0xC4)) (fun t => shows t 0x03 0xC5 0 0 0) = true := by decide
theorem test_rra : steps (cpu [0x1F] (a := 0x01)) (fun t => shows t 0 0x01 0 0 0) = true := by decide
theorem test_rl_register : steps (State.inTable (cpu [0x12] (f := 0x01) (de := 0x8000)) .bit) (fun t => shows t 0 0x01 0 0x0100 0) = true := by
  decide
theorem test_sra_register : steps (State.inTable (cpu [0x2D] (hl := 0x0081)) .bit) (fun t => shows t 0 0x85 0 0 0x00C0) = true := by decide
theorem test_sll_register : steps (State.inTable (cpu [0x37] (a := 0x80)) .bit) (fun t => shows t 0x01 0x01 0 0 0) = true := by decide
theorem test_rrc_indexed : steps (State.after { cpu [0xCB, 0xFF, 0x0E] (cells := [(0x3FFF, 0x01)]) with iy := 0x4000 } .iy) (fun t =>
    t.main.f = 0x81 && t.peek 0x3FFF = 0x80 && t.wz = 0x3FFF && t.clk = 19) = true := by decide
theorem test_sll_indexed_copy : steps (State.after { cpu [0xCB, 0x01, 0x34] (hl := 0x7700) (cells := [(0x4001, 0x40)]) with
    ix := 0x4000 } .ix) (fun t => t.hl = 0x8100 && t.main.f = 0x84 && t.peek 0x4001 = 0x81 && t.ix = 0x4000) = true := by decide
theorem test_rld : steps (State.inTable (cpu [0x6F] (a := 0x7A) (f := 0x01) (hl := 0x5000) (cells := [(0x5000, 0x31)])) .extended)
    (fun t => shows t 0x73 0x21 0 0 0x5000 && t.peek 0x5000 = 0x1A && t.wz = 0x5001) = true := by decide
theorem test_rrd : steps (State.inTable (cpu [0x67] (a := 0x84) (hl := 0x5000) (cells := [(0x5000, 0x20)])) .extended)
    (fun t => shows t 0x80 0x80 0 0 0x5000 && t.peek 0x5000 = 0x42) = true := by decide
theorem test_bit_7_register : steps (State.inTable (cpu [0x7F] (a := 0x7F)) .bit) (fun t => shows t 0x7F 0x7C 0 0 0) = true := by decide
theorem test_bit_memory_from_wz : steps (State.inTable { cpu [0x46] (hl := 0x4000) (cells := [(0x4000, 0x01)]) with wz := 0x2800 }
    .bit) (fun t => t.main.f = 0x38 && t.clk = 8) = true := by decide
theorem test_bit_indexed_any_z : steps (State.after { cpu [0xCB, 0x10, 0x79] (cells := [(0x3000, 0x80)]) with ix := 0x2FF0 } .ix)
    (fun t => t.main.f = 0xB0 && t.bc = 0 && t.clk = 16) = true := by decide
theorem test_set_indexed_copy : steps (State.after { cpu [0xCB, 0xFF, 0xC0] (cells := [(0x3FFF, 0x10)]) with iy := 0x4000 } .iy)
    (fun t => t.bc = 0x1100 && t.peek 0x3FFF = 0x11 && t.main.f = 0) = true := by decide
theorem test_res_indexed_copy : steps (State.after { cpu [0xCB, 0x00, 0x9D] (hl := 0x00AA) (cells := [(0x4000, 0x0F)]) with
    ix := 0x4000 } .ix) (fun t => t.hl = 0x0007 && t.peek 0x4000 = 0x07) = true := by decide

-- jumps, calls, returns: V48-4, V48-7, V48-10, V48-13, V48-16, V48-19, V48-21, V48-23, V48-27, V48-31
theorem test_jp_p_not_taken : steps { cpu [0xF2, 0xFF, 0xFF] (f := 0x80) with wz := 0x5555 } (fun t => t.pc = 3 && t.wz = 0xFFFF) = true := by
  decide
theorem test_jr_backwards_wraps : steps { cpu [] (cells := [(0x10, 0x18), (0x11, 0x80)]) with pc := 0x10 } (fun t =>
    t.pc = 0xFF92 && t.wz = 0xFF92 && t.clk = 12) = true := by decide
theorem test_jr_nz_not_taken : steps { cpu [0x20, 0xFC] (f := 0x40) with wz := 0x5555 } (fun t =>
    t.pc = 2 && t.wz = 0x5555 && t.clk = 7) = true := by decide
theorem test_jp_ix : steps (State.after { cpu [0xE9] (hl := 0x2000) with ix := 0x1000, wz := 0x5555 } .ix) (fun t =>
    t.pc = 0x1000 && t.wz = 0x5555 && t.clk = 4) = true := by decide
theorem test_djnz_ends : steps (cpu [0x10, 0xFE] (bc := 0x0100)) (fun t => t.bc = 0 && t.pc = 2 && t.clk = 8) = true := by decide
theorem test_call_c_not_taken : steps { cpu [0xDC, 0x00, 0x20] with sp := 0x8000 } (fun t =>
    t.pc = 3 && t.sp = 0x8000 && t.wz = 0x2000 && t.clk = 10) = true := by decide
theorem test_call_wraps : steps { cpu [] (cells := [(0x100, 0xCD), (0x101, 0x34), (0x102, 0x12)]) with pc := 0x100, sp := 1 } (fun t =>
    t.pc = 0x1234 && t.sp = 0xFFFF && t.peek 0 = 0x01 && t.peek 0xFFFF = 0x03) = true := by decide
theorem test_ret_z_not_taken : steps { cpu [0xC8] with sp := 0x8000 } (fun t => t.pc = 1 && t.sp = 0x8000 && t.clk = 5) = true := by decide
theorem test_retn_restores : steps (State.inTable { cpu [0x45] (cells := [(0x8000, 0x34), (0x8001, 0x12)]) with
    sp := 0x8000, iff1 := true } .extended) (fun t => t.pc = 0x1234 && t.sp = 0x8002 && !t.iff1 && t.wz = 0x1234) = true := by decide
theorem test_rst_at_top : steps { cpu [] (cells := [(0xFFFF, 0xEF)]) with pc := 0xFFFF, sp := 0x8000 } (fun t =>
    t.pc = 0x28 && t.sp = 0x7FFE && t.wz = 0x28 && t.peek 0x7FFF = 0 && t.peek 0x7FFE = 0) = true := by decide

-- input and output: V49-2, V49-5, V49-6, V49-8, V49-11, V49-12, V49-15, V49-19, V49-20, V49-22
theorem test_in_a_n : steps { cpu [0xDB, 0xFF] (a := 0xFF) with wz := 0x5555, portAnswers := [0] } (fun t =>
    t.main.a = 0 && t.wz = 0 && t.bus.head? = some (.portRead 0xFFFF 0)) = true := by decide
theorem test_in_c_c : steps (State.inTable { cpu [0x48] (bc := 0x1234) with portAnswers := [0x29] } .extended) (fun t =>
    shows t 0 0x28 0x1229 0 0 && t.wz = 0x1235) = true := by decide
theorem test_in_c_flags_only : steps (State.inTable { cpu [0x70] (bc := 0x00FE) with portAnswers := [0xFF] } .extended) (fun t =>
    shows t 0 0xAC 0x00FE 0 0) = true := by decide
theorem test_out_n_a_no_carry : steps (cpu [0xD3, 0xFF] (a := 0x12)) (fun t =>
    t.wz = 0x1200 && t.bus.head? = some (.portWrite 0x12FF 0x12)) = true := by decide
theorem test_out_c_zero : steps (State.inTable (cpu [0x71] (bc := 0x00FE)) .extended) (fun t =>
    t.bus.head? = some (.portWrite 0x00FE 0) && t.wz = 0x00FF) = true := by decide
theorem test_ini : steps (State.inTable { cpu [0xA2] (bc := 0x0210) (hl := 0x4000) with portAnswers := [0xF0] } .extended) (fun t =>
    shows t 0 0x17 0x0110 0 0x4001 && t.wz = 0x0211 && t.peek 0x4000 = 0xF0) = true := by decide
theorem test_inir_repeats : steps (State.inTable { cpu [] (bc := 0x0210) (hl := 0x4000) (cells := [(0x101, 0xB2)]) with
    pc := 0x101, portAnswers := [0x55] } .extended) (fun t => t.bc = 0x0110 && t.pc = 0x100 && t.wz = 0x0211 && t.clk = 17) = true := by decide
theorem test_outi : steps (State.inTable (cpu [0xA3] (bc := 0x0020) (hl := 0x50FF) (cells := [(0x50FF, 0xFF)])) .extended) (fun t =>
    shows t 0 0xAA 0xFF20 0 0x5100 && t.wz = 0xFF21 && t.bus.head? = some (.portWrite 0xFF20 0xFF)) = true := by decide
theorem test_outd : steps (State.inTable (cpu [0xAB] (bc := 0x0220) (hl := 0x5000) (cells := [(0x5000, 0x01)])) .extended) (fun t =>
    shows t 0 0x11 0x0120 0 0x4FFF && t.wz = 0x011F) = true := by decide
theorem test_otdr_ends : steps (State.inTable { cpu [] (bc := 0x0120) (hl := 0x5000) (cells := [(0x101, 0xBB), (0x5000, 0x7F)]) with
    pc := 0x101 } .extended) (fun t => shows t 0 0x55 0x0020 0 0x4FFF && t.pc = 0x102 && t.clk = 12) = true := by decide

-- signals: X4b, X6e, X7, X14 (step 3), X15
theorem test_nmi_from_halt : steps { cpu [] with halted := true, pc := 0x100, sp := 0x8000, iff1 := true, iff2 := true, nmiReq := true }
    (fun t => t.peek 0x7FFF = 1 && t.peek 0x7FFE = 1 && t.pc = 0x66 && !t.halted && !t.iff1 && t.iff2 && t.clk = 11) = true := by decide
theorem test_int_from_halt : steps { cpu [] with
    halted := true, im := .mode0, pc := 0x1234, sp := 0xFFFE, iff1 := true, iff2 := true, intReq := true }
    (fun t => t.peek 0xFFFD = 0x12 && t.peek 0xFFFC = 0x35 && t.pc = 0x38 && t.wz = 0x38 && !t.iff2 && t.intReq && t.clk = 13) = true := by
  decide
theorem test_int_mode_2 : steps { cpu [] (cells := [(0x8000, 0x21), (0x8001, 0x43)]) with
    im := .mode2, i := 0x80, pc := 0x1000, sp := 0x9000, iff1 := true, iff2 := true, intReq := true }
    (fun t => t.pc = 0x4321 && t.wz = 0x4321 && t.peek 0x8FFF = 0x10 && t.peek 0x8FFE = 0 && t.clk = 19) = true := by decide
theorem test_nmi_splits_prefix : steps (State.after (cpu [0x21, 0x00, 0x80] (hl := 0x1111)) .ix) (fun t =>
    t.ix = 0x8000 && t.hl = 0x1111 && t.indexMode = none) = true := by decide
theorem test_halted_refresh : steps { cpu [] with halted := true, pc := 0x100, r := 0xFF, intReq := true } (fun t =>
    t.r = 0x80 && t.pc = 0x100 && t.clk = 4 && t.bus = []) = true := by decide

-- memory that is no RAM, and the host: 20_memory.md R70, R87, 70_reset_and_hazards.md R495
theorem test_rom_keeps_its_byte : steps { cpu [0x77] (a := 0x99) (hl := 0x0003) (cells := [(3, 0x12)]) with
    regions := [{ base := 0, size := 0x4000, kind := .rom }] } (fun t =>
    t.content 3 = 0x12 && t.bus.head? = some (.memWrite 3 0x99) && t.clk = 7) = true := by decide
theorem test_device_write_recorded : steps { cpu [0x77] (a := 0x99) (hl := 0x8000) with
    regions := [{ base := 0x8000, size := 1, kind := .device }] } (fun t =>
    t.mem = [(0, 0x77)] && t.bus.head? = some (.memWrite 0x8000 0x99)) = true := by decide
theorem test_host_refused_mid_instruction : State.host (State.after (cpu []) .ix) (.store 0 0x21) = none := by decide
theorem test_host_swaps_between_instructions : (State.host (cpu []) (.swapPlatform 1)).isSome = true := by decide
theorem test_with_fetch_word_over_device : steps (State.withFetchWord { State.reset with
    main := { RegSet.zero with a := 0x0F, b := 0x01 }, regions := [{ base := 0, size := 65536, kind := .device }] } 8 0x80)
    (fun t => t.main.a = 0x10) = true := by decide

/-- What the host asks: a table word placed where the step fetches is the next instruction run. -/
theorem test_with_fetch_word : steps (State.withFetchWord { State.reset with main := { RegSet.zero with a := 0x0F, b := 0x01 } } 8 0x80)
    (fun t => t.main.a = 0x10) = true := by decide
theorem test_with_fetch_word_prefixed : steps (State.withFetchWord { State.reset with main := { RegSet.zero with a := 0x01 } } 16 0x44ED)
    (fun t => t.main.a = 0xFF && t.prefixMode = .normal) = true := by decide

/-! ### Witnesses: values that meet all hypotheses of a statement together -/

/-- A machine with every register 0 and this code at 0x0000. -/
def code (bytes : List Byte) : State := State.placeBytes State.reset 0 bytes

theorem fetches_of (s : State) (h : (!s.resetReq && !s.nmiReq && !s.acceptsInt && !s.halted) = true) : s.Fetches := by
  simp at h
  exact ⟨h.1.1.1, h.1.1.2, h.1.2, h.2⟩

theorem witness_ResetService : ∃ s : State, s.resetReq = true := ⟨{ State.reset with resetReq := true }, rfl⟩

theorem witness_ResetService_next : ∃ s t : State, s.resetReq = true ∧ step s = .next t ∧ t.nmiReq = false :=
  ⟨{ State.reset with resetReq := true, pc := 0x1234 }, _, rfl, rfl, rfl⟩

theorem witness_NmiService : ∃ s : State, s.resetReq = false ∧ s.nmiReq = true ∧ s.halted = true :=
  ⟨{ State.reset with nmiReq := true, halted := true }, rfl, rfl, rfl⟩

theorem witness_InterruptMode01 : ∃ s : State, s.resetReq = false ∧ s.nmiReq = false ∧ s.intReq = true ∧ s.iff1 = true ∧
    s.intBlocked = false ∧ s.im ≠ .mode2 :=
  ⟨{ State.reset with intReq := true, iff1 := true, im := .mode1 }, rfl, rfl, rfl, rfl, rfl, by decide⟩

theorem witness_InterruptMode2 : ∃ s : State, s.resetReq = false ∧ s.nmiReq = false ∧ s.intReq = true ∧ s.iff1 = true ∧
    s.intBlocked = false ∧ s.im = .mode2 :=
  ⟨{ State.reset with intReq := true, iff1 := true, im := .mode2 }, rfl, rfl, rfl, rfl, rfl, rfl⟩

/-- All three requested, the two lower ones, and the maskable one alone in either mode. -/
theorem witness_SignalPriority :
    (∃ s : State, s.resetReq = true ∧ s.nmiReq = true ∧ s.acceptsInt = true) ∧
    (∃ s : State, s.resetReq = false ∧ s.nmiReq = true ∧ s.acceptsInt = true) ∧
    (∃ s : State, s.resetReq = false ∧ s.nmiReq = false ∧ s.acceptsInt = true ∧ s.im ≠ .mode2) ∧
    (∃ s : State, s.resetReq = false ∧ s.nmiReq = false ∧ s.acceptsInt = true ∧ s.im = .mode2) :=
  ⟨⟨{ State.reset with resetReq := true, nmiReq := true, intReq := true, iff1 := true }, rfl, rfl, rfl⟩,
    ⟨{ State.reset with nmiReq := true, intReq := true, iff1 := true }, rfl, rfl, rfl⟩,
    ⟨{ State.reset with intReq := true, iff1 := true }, rfl, rfl, rfl, by decide⟩,
    ⟨{ State.reset with intReq := true, iff1 := true, im := .mode2 }, rfl, rfl, rfl, rfl⟩⟩

theorem witness_SimultaneousRequests_reset : ∃ s : State, s.resetReq = true ∧ s.nmiReq = true ∧ s.intReq = true ∧ s.iff1 = true :=
  ⟨{ State.reset with resetReq := true, nmiReq := true, intReq := true, iff1 := true }, rfl, rfl, rfl, rfl⟩

theorem witness_SimultaneousRequests_nmi : ∃ s : State, s.resetReq = false ∧ s.nmiReq = true ∧ s.intReq = true ∧ s.iff1 = true :=
  ⟨{ State.reset with nmiReq := true, intReq := true, iff1 := true }, rfl, rfl, rfl, rfl⟩

theorem witness_HaltWithInterruptsDisabled : ∃ s : State, s.halted = true ∧ s.iff1 = false ∧ s.resetReq = false ∧
    s.nmiReq = false ∧ s.intReq = true :=
  ⟨{ State.reset with halted := true, intReq := true }, rfl, rfl, rfl, rfl, rfl⟩

theorem witness_StepRunsTheDecodedInstruction : (code [0x3E, 0x12, 0x99]).Fetches ∧ (code [0x3E, 0x12, 0x99]).atPc [0x3E, 0x12, 0x99] ∧
    decode (code [0x3E, 0x12, 0x99]).table [0x3E, 0x12, 0x99] = .instr (.ldRN .a 0x12) [0x99] :=
  ⟨fetches_of _ (by decide), by unfold State.atPc; decide, by decide⟩

/-- For `StepsRunAWholeInstruction` and `WholeInstructionTakesItsTStates`: four bytes, the last at 0x0000. -/
theorem witness_WholeInstruction :
    let i : Instr := .indexedBit .iy (.setIndXyR .iy 7 0x80 .a)
    let s := State.placeBytes { State.reset with pc := 0xFFFD, intReq := true } 0xFFFD (encode i)
    i.wf = true ∧ i.isPrefix = false ∧ (∀ xy, i.table ≠ .indexedBit xy) ∧ ¬ s.prefixPending ∧ s.Fetches ∧ s.atPc (encode i) :=
  ⟨by decide, by decide, by intro xy; cases xy <;> decide, by unfold State.prefixPending; decide, fetches_of _ (by decide),
    by unfold State.atPc; decide⟩

theorem witness_EveryInstructionCompletes : (Instr.djnz 0x80).wf = true ∧ (Instr.djnz 0x80).isPrefix = false := by decide

theorem witness_IndexPrefixChain :
    let s := code [0xDD, 0xFD, 0xDD]
    s.prefixMode = .normal ∧ s.Fetches ∧ s.atPc (([.ix, .iy] ++ [.ix] : List IndexReg).map IndexReg.prefixByte) :=
  ⟨rfl, fetches_of _ (by decide), by unfold State.atPc; decide⟩

/-- The invariant of a running state in which `INT_BLOCKED` is set and no table prefix `CB` is pending. -/
theorem inv_of (s : State) (h1 : s.mem.wf = true) (h2 : s.prefixMode ≠ .bit) (h3 : s.intBlocked = true)
    (h4 : s.halted = false) : s.Inv :=
  ⟨h1, fun h => absurd h h2, fun _ => .inl h3, fun h => absurd (h4 ▸ h) (by decide), fun h => absurd (h4 ▸ h) (by decide)⟩

/-- A step that stores a byte from a state that meets the invariant. -/
theorem witness_InvariantKeptByEveryStep :
    ∃ t, State.Inv { code [0x36, 0x5A] with intBlocked := true } ∧ step { code [0x36, 0x5A] with intBlocked := true } = .next t :=
  ⟨_, inv_of _ (by decide) (by decide) rfl rfl, rfl⟩

/-- A halted state that meets the invariant. -/
theorem witness_Invariant_halted : ∃ s : State, s.Inv ∧ s.halted = true :=
  ⟨{ code [0x76] with halted := true, bus := [.memRead 0 0x76] },
    ⟨by decide, fun h => absurd h (by decide), fun h => absurd h (by unfold State.prefixPending; decide),
      fun _ => ⟨by unfold State.prefixPending; decide, rfl⟩, fun _ _ => by decide⟩, rfl⟩

/-- An action of the host from a state that meets the invariant, the core not halted. -/
theorem witness_InvariantKeptByTheHost : ∃ s t : State, s.Inv ∧
    s.host (.mapMemory [{ base := 0x0000, size := 0x4000, kind := .rom }]) = some t ∧ t.halted = false :=
  ⟨{ code [0x04] with intBlocked := true }, _, inv_of _ (by decide) (by decide) rfl rfl, rfl, rfl⟩

/-- A state that meets the invariant and accepts a maskable interrupt. -/
theorem witness_MaskableInterruptSplitsNothing_accepts : ∃ s : State, s.Inv ∧ s.acceptsInt = true :=
  ⟨{ code [] with intReq := true, iff1 := true },
    ⟨by decide, fun h => absurd h (by decide), fun h => absurd h (by unfold State.prefixPending; decide),
      fun h => absurd h (by decide), fun h => absurd h (by decide)⟩, rfl⟩

theorem witness_MaskableInterruptSplitsNothing :
    ∃ t, State.Inv { code [0xDD] with intBlocked := true, iff1 := true } ∧
      step { code [0xDD] with intBlocked := true, iff1 := true } = .next t ∧ t.prefixPending :=
  ⟨_, inv_of _ (by decide) (by decide) rfl rfl, rfl, .inr (by decide)⟩

/-- A step to `PREFIX = Bit`, one that sets `INT_BLOCKED` and one that completes an instruction. -/
theorem witness_DecodeStateAfterAStep :
    (∃ s t : State, s.Inv ∧ step s = .next t ∧ t.prefixMode = .bit ∧ t.intBlocked = true) ∧
    (∃ s t : State, s.Inv ∧ step s = .next t ∧ s.Fetches ∧ s.nextInstr.isPrefix = false) ∧
    (∃ s : State, s.prefixMode = .bit ∧ s.indexMode = some .ix) :=
  ⟨⟨{ code [0xCB] with intBlocked := true }, _, inv_of _ (by decide) (by decide) rfl rfl, rfl, by decide, by decide⟩,
    ⟨{ code [0x04] with intBlocked := true }, _, inv_of _ (by decide) (by decide) rfl rfl, rfl, fetches_of _ (by decide),
      by decide⟩,
    ⟨{ State.reset with prefixMode := .bit, indexMode := some .ix }, rfl, rfl⟩⟩

/-- For `ShadowWrittenByExchangesOnly` and `FlagsWrittenByTheListOnly`: `LD A,0x12`. -/
theorem witness_OtherWriters : ∃ t, step (code [0x3E, 0x12]) = .next t ∧
    ¬ ((code [0x3E, 0x12]).Fetches ∧
      ((code [0x3E, 0x12]).nextInstr.handler = .exAfAf ∨ (code [0x3E, 0x12]).nextInstr.handler = .exx)) ∧
    ¬ ((code [0x3E, 0x12]).Fetches ∧ (code [0x3E, 0x12]).nextInstr.handler.writesF = true) :=
  ⟨_, rfl, fun h => absurd h.2 (by decide), fun h => absurd h.2 (by decide)⟩

/-- One step that meets the hypothesis of each clause: none of the named instructions, no interrupt accepted, and `EI`, after
which `IFF1` is set. -/
theorem witness_ControlRegisterWriters : ∃ t, step (code [0xFB]) = .next t ∧ (code [0xFB]).resetReq = false ∧
    (code [0xFB]).nextInstr.handler ≠ .ldIA ∧ (code [0xFB]).nextInstr.handler ≠ .ldRA ∧
    (code [0xFB]).acceptsInt = false ∧ t.iff1 = true :=
  ⟨_, rfl, rfl, by decide, by decide, by decide, by decide⟩

/-- `NOP` with `IFF1` set: no clause of `ControlRegisterWriters` excludes its step. -/
theorem witness_ControlRegisterWriters_plain : ∃ t, step { code [0x00] with iff1 := true } = .next t ∧ t.iff1 = true ∧
    State.nextInstr { code [0x00] with iff1 := true } = .nop ∧ State.acceptsInt { code [0x00] with iff1 := true } = false :=
  ⟨_, rfl, rfl, by decide, by decide⟩

/-- The host while a prefix is pending and while none is. -/
theorem witness_RequestsAndClock_host :
    (∃ s t : State, s.prefixPending ∧ s.host (.driveInt true) = some t) ∧ (∃ s : State, ¬ s.prefixPending) :=
  ⟨⟨{ State.reset with indexMode := some .ix }, _, .inr (by decide), rfl⟩, State.reset, by unfold State.prefixPending; decide⟩

/-- Every kind of address for `AccessesExplainMemory`, at both ends of a region that wraps around. -/
theorem witness_AccessesExplainMemory :
    let s := { State.reset with regions := [{ base := 0xFFFE, size := 4, kind := .device }, { base := 0, size := 0x4000, kind := .rom }] }
    [0xFFFD, 0xFFFE, 0x0001, 0x0002, 0x3FFF, 0x4000].map (fun a : Word => s.memKind a) =
      [.ram, .device, .device, .rom, .rom, .ram] := by decide

/-- RAM at the two stack addresses, `SP` at its lowest values. -/
theorem witness_PushAndPop : State.memKind { State.reset with sp := 1 } 0 = .ram ∧ State.memKind { State.reset with sp := 1 } 0xFFFF = .ram := by
  decide

/-- For `RequestsAndClock` and `AccessesExplainMemory`: a reset step and a step that stores. -/
theorem witness_steps : (∃ s t : State, step s = .next t ∧ s.resetReq = true ∧ s.nmiReq = true) ∧
    (∃ s t : State, step s = .next t ∧ s.resetReq = false ∧ t.mem ≠ s.mem) :=
  ⟨⟨{ State.reset with resetReq := true, nmiReq := true }, _, rfl, rfl, rfl⟩, ⟨code [0x36, 0x5A], _, rfl, rfl, by decide⟩⟩

/-- For `DecodeOfEncode`, `DecodeOfAWholeByteString` and `PrefixBytesAndHandOver`. -/
theorem witness_wellFormed : (Instr.xyStandard .ix (.ldRN .b 0x5A)).wf = true ∧ (Instr.indexedBit .iy (.bitIndXy .iy 7 0x80 6)).wf = true ∧
    (Instr.ldDdNn .sp 0xFFFF).wf = true ∧ (Instr.edNop 0xFF).wf = true := by decide

theorem witness_DecodeOfAWholeByteString :
    (Instr.neg 7).wf = true ∧ (Instr.neg 7).isPrefix = false ∧ (∀ xy, (Instr.neg 7).table ≠ .indexedBit xy) ∧
    (Instr.neg 7).table = .extended ∧ (Instr.ldXyNn .iy 0x1234).table = .indexed .iy :=
  ⟨by decide, by decide, by intro xy; cases xy <;> decide, by decide, by decide⟩

/-- Both ends of the range of `DecimalAdjust`, by 44_general_control.md R270: 99 + 99 + 1 gives 99 and a carry, 0 - 99 - 1 gives 0
and a borrow. -/
theorem witness_DecimalAdjust :
    (daa8 (add8 0x99 0x99 true).1 (add8 0x99 0x99 true).2).1 = 0x99 ∧ flagC (daa8 (add8 0x99 0x99 true).1 (add8 0x99 0x99 true).2).2 = true ∧
    (daa8 (sub8 0x00 0x99 true).1 (sub8 0x00 0x99 true).2).1 = 0x00 ∧ flagC (daa8 (sub8 0x00 0x99 true).1 (sub8 0x00 0x99 true).2).2 = true ∧
    (99 < 100 ∧ 0 < 100) := by decide

/-- Members of the lists the statements range over: a block form that repeats, an accumulator operation, a rotate, an exchange. -/
theorem witness_members : (Instr.lddr, (-1 : Word), true) ∈ [(Instr.ldi, (1 : Word), false), (.ldir, 1, true), (.ldd, -1, false), (.lddr, -1, true)] ∧
    (Instr.cpdr, (-1 : Word), true) ∈ [(Instr.cpi, (1 : Word), false), (.cpir, 1, true), (.cpd, -1, false), (.cpdr, -1, true)] ∧
    (Instr.indr, (-1 : Word), (-1 : Byte), true) ∈ [(Instr.ini, (1 : Word), (1 : Byte), false), (.inir, 1, 1, true),
      (.ind, -1, -1, false), (.indr, -1, -1, true)] ∧
    (Instr.otdr, (-1 : Word), true) ∈ [(Instr.outi, (1 : Word), false), (.otir, 1, true), (.outd, -1, false), (.otdr, -1, true)] ∧
    (Instr.rra, RotOp.rr) ∈ [(Instr.rlca, RotOp.rlc), (.rla, .rl), (.rrca, .rrc), (.rra, .rr)] ∧
    Instr.exx ∈ [Instr.exDeHl, .exAfAf, .exx] := by decide

/-- The lists of operations are zipped with lists of the same length, so no operation drops out. -/
theorem witness_zip_lengths : aluFunctions.length = 8 ∧ rotOps.length = 8 := by decide

end Sys2Proof.Tests
end

section
/-! Decoding gives well-formed instructions of the table it looks in (30_encoding.md R100, R123). -/

namespace Sys2Proof

/-- A well-formed instruction of the table `t`. -/
structure Instr.SlotOf (t : Table) (i : Instr) : Prop where
  wf : i.wf = true
  table : i.table = t

/-! ### Field codes -/

theorem fieldY_lt (op : Byte) : fieldY op < 8 := Nat.mod_lt _ (by decide)

theorem fieldZ_lt (op : Byte) : fieldZ op < 8 := Nat.mod_lt _ (by decide)

/-- `JR cc,e` takes the condition codes 0 to 3 (R107, R384). -/
theorem isRelative_condOfCode {k : Nat} (h : k < 4) : (condOfCode k).isRelative = true := by
  interval_cases k <;> rfl

/-- The no-ops of the extended table by the fields of their opcode byte (R121, R276). -/
theorem isExtendedNop_iff (op : Byte) :
    isExtendedNop op = true ↔ fieldX op ≠ 1 ∧ fieldX op ≠ 2 ∨ fieldX op = 1 ∧ fieldZ op = 7 ∧ 6 ≤ fieldY op ∨
      fieldX op = 2 ∧ (fieldY op < 4 ∨ 4 ≤ fieldZ op) := by
  have := op.isLt
  simp only [isExtendedNop, fieldX, fieldY, fieldZ, Bool.or_eq_true, Bool.and_eq_true, decide_eq_true_eq]
  omega

/-- A field of three bits that is not 1 makes `RETN`, not `RETI` (R121, R128). -/
theorem Instr.wf_retn {y : Nat} (hy : y < 8) (h : y ≠ 1) : (Instr.retn (BitVec.ofNat 3 y)).wf = true := by
  show (BitVec.ofNat 3 y != 1) = true
  rw [bne_iff_ne]
  intro e
  exact h (by simpa [Nat.mod_eq_of_lt hy] using congrArg BitVec.toNat e)

theorem Instr.wf_xyStandard {xy : IndexReg} {i : Instr} :
    (Instr.xyStandard xy i).wf = true ↔ i.table = .standard ∧ i.replacedByIndex = false ∧ i.wf = true := by
  show (decide (i.table = .standard) && !i.replacedByIndex && i.wf) = true ↔ _
  simp [and_assoc]

theorem Instr.wf_indexedBit {xy : IndexReg} {i : Instr} :
    (Instr.indexedBit xy i).wf = true ↔ i.table = .indexedBit xy ∧ i.wf = true := by
  show (decide (i.table = .indexedBit xy) && i.wf) = true ↔ _
  simp

/-! ### The tables -/

theorem decodeStandard0_slotOf {y : Nat} (hy : y < 8) (z : Nat) (a b : Byte) :
    (decodeStandard0 y z a b).SlotOf .standard := by
  unfold decodeStandard0
  dsimp only
  split
  case h_1 =>
    split
    case h_5 => exact ⟨isRelative_condOfCode (by omega), rfl⟩
    all_goals exact ⟨rfl, rfl⟩
  all_goals repeat' split
  all_goals exact ⟨rfl, rfl⟩

theorem decodeStandard1_slotOf (y z : Nat) : (decodeStandard1 y z).SlotOf .standard := by
  unfold decodeStandard1
  split <;> exact ⟨rfl, rfl⟩

theorem decodeStandard2_slotOf (y z : Nat) : (decodeStandard2 y z).SlotOf .standard := by
  unfold decodeStandard2
  repeat' split
  all_goals exact ⟨rfl, rfl⟩

theorem decodeAluN_slotOf (y : Nat) (n : Byte) : (decodeAluN y n).SlotOf .standard := by
  unfold decodeAluN
  split <;> exact ⟨rfl, rfl⟩

theorem decodeStandard3_slotOf (y z : Nat) (a b : Byte) : (decodeStandard3 y z a b).SlotOf .standard := by
  unfold decodeStandard3
  dsimp only
  split
  case h_7 => exact decodeAluN_slotOf y a
  all_goals repeat' split
  all_goals exact ⟨rfl, rfl⟩

theorem decodeStandard_slotOf (op a b : Byte) : (decodeStandard op a b).SlotOf .standard := by
  unfold decodeStandard
  split
  · exact decodeStandard0_slotOf (fieldY_lt op) _ a b
  · exact decodeStandard1_slotOf _ _
  · exact decodeStandard2_slotOf _ _
  · exact decodeStandard3_slotOf _ _ a b

theorem decodeBit_slotOf (op : Byte) : (decodeBit op).SlotOf .bit := by
  unfold decodeBit
  dsimp only
  repeat' split
  all_goals exact ⟨rfl, rfl⟩

theorem decodeIndexedBit_slotOf (xy : IndexReg) (d op : Byte) : (decodeIndexedBit xy d op).SlotOf (.indexedBit xy) := by
  unfold decodeIndexedBit
  dsimp only
  repeat' split
  all_goals exact ⟨rfl, rfl⟩

theorem decodeExtended1_slotOf {op : Byte} (hx : fieldX op = 1) (a b : Byte) :
    (decodeExtended1 op a b).SlotOf .extended := by
  have hy := fieldY_lt op
  have hz := fieldZ_lt op
  unfold decodeExtended1
  dsimp only
  split
  case h_6 =>
    split
    case isTrue => exact ⟨rfl, rfl⟩
    case isFalse h => exact ⟨Instr.wf_retn hy h, rfl⟩
  case h_8 =>
    split
    case h_7 => exact ⟨(isExtendedNop_iff op).2 (by grind), rfl⟩
    all_goals exact ⟨rfl, rfl⟩
  all_goals repeat' split
  all_goals exact ⟨rfl, rfl⟩

theorem decodeExtended2_slotOf {op : Byte} (hx : fieldX op = 2) : (decodeExtended2 op).SlotOf .extended := by
  have hy := fieldY_lt op
  unfold decodeExtended2
  split
  case h_17 => exact ⟨(isExtendedNop_iff op).2 (by grind), rfl⟩
  all_goals exact ⟨rfl, rfl⟩

theorem decodeExtended_slotOf (op a b : Byte) : (decodeExtended op a b).SlotOf .extended := by
  unfold decodeExtended
  split
  · exact decodeExtended1_slotOf ‹_› a b
  · exact decodeExtended2_slotOf ‹_›
  · exact ⟨(isExtendedNop_iff op).2 (.inl ⟨‹_›, ‹_›⟩), rfl⟩

/-- A standard instruction that an index prefix leaves as it is (R114 items 4 and 5). -/
theorem Instr.SlotOf.xyStandard {i : Instr} (h : i.SlotOf .standard) (hr : i.replacedByIndex = false) (xy : IndexReg) :
    (Instr.xyStandard xy i).SlotOf (.indexed xy) :=
  ⟨Instr.wf_xyStandard.2 ⟨h.table, hr, h.wf⟩, rfl⟩

/-- Rule R114 on a standard instruction: one that names `HL`, `H`, `L` or `(HL)` is replaced, any other is handed over. -/
theorem indexedForm_slotOf {i : Instr} (h : i.SlotOf .standard) (xy : IndexReg) (a b : Byte) :
    (indexedForm xy a b i).SlotOf (.indexed xy) := by
  cases i with
  | ldDdNn dd _ | incSs dd | decSs dd => cases dd <;> exact ⟨rfl, rfl⟩
  | popQq qq | pushQq qq => cases qq <;> exact ⟨rfl, rfl⟩
  | incR r | decR r | ldRN r _ | addR r | adcR r | subR r | sbcR r | andR r | xorR r | orR r | cpR r =>
    cases r <;> exact ⟨rfl, rfl⟩
  | ldRR y z =>
    show Instr.SlotOf _ (if y.isHalf || z.isHalf then .ldRRXy xy y z else .xyStandard xy (.ldRR y z))
    split
    · exact ⟨‹_›, rfl⟩
    · exact h.xyStandard (Bool.eq_false_iff.2 ‹_›) xy
  | addHlSs _ | ldIndNnHl _ | ldHlIndNn _ | incIndHl | decIndHl | ldIndHlN _ | ldIndHlR _ | ldRIndHl _ | addIndHl
  | adcIndHl | subIndHl | sbcIndHl | andIndHl | xorIndHl | orIndHl | cpIndHl | exIndSpHl | jpIndHl | ldSpHl | prefixDd
  | prefixEd | prefixFd => exact ⟨rfl, rfl⟩
  | prefixCb =>
    obtain ⟨hw, ht⟩ := decodeIndexedBit_slotOf xy a b
    exact ⟨Instr.wf_indexedBit.2 ⟨ht, hw⟩, rfl⟩
  | _ => exact h.xyStandard rfl xy

/-- Every byte value is a slot of every table (R100, R123). -/
theorem decodeSlot_slotOf (t : Table) (op a b : Byte) : (decodeSlot t op a b).SlotOf t := by
  cases t with
  | standard => exact decodeStandard_slotOf op a b
  | bit => exact decodeBit_slotOf op
  | extended => exact decodeExtended_slotOf op a b
  | indexed xy => exact indexedForm_slotOf (decodeStandard_slotOf op a b) xy a b
  | indexedBit xy => exact decodeIndexedBit_slotOf xy op a

end Sys2Proof
end

section
/-! Every well-formed instruction gives a next state, and so does every step (00_scope.md R16; 30_encoding.md R111 to R117). -/

namespace Sys2Proof.Machine

/-! ### Handing over to another table (R114 items 4 and 5, R115) -/

theorem execStandardSlot_eq_exec {i : Instr} (ht : i.table = .standard) (hr : i.replacedByIndex = false) (s : State) :
    execStandardSlot i s = exec i s := by
  cases i with
  | addHlSs _ | ldIndNnHl _ | ldHlIndNn _ | incIndHl | decIndHl | ldIndHlN _ | ldIndHlR _ | ldRIndHl _ | addIndHl
  | adcIndHl | subIndHl | sbcIndHl | andIndHl | xorIndHl | orIndHl | cpIndHl | exIndSpHl | jpIndHl | ldSpHl | prefixCb
  | prefixDd | prefixEd | prefixFd => nomatch hr
  | nop | exAfAf | djnz _ | jr _ | jrCc _ _ | ldDdNn _ _ | ldIndBcA | ldIndDeA | ldIndNnA _ | ldAIndBc | ldAIndDe
  | ldAIndNn _ | incSs _ | decSs _ | incR _ | decR _ | ldRN _ _ | rlca | rrca | rla | rra | daa | cpl | scf | ccf | halt
  | ldRR _ _ | addR _ | adcR _ | subR _ | sbcR _ | andR _ | xorR _ | orR _ | cpR _ | retCc _ | popQq _ | ret | exx
  | jpCcNn _ _ | jpNn _ | outIndNA _ | inAIndN _ | exDeHl | di | ei | callCcNn _ _ | pushQq _ | callNn _ | addN _ | adcN _
  | subN _ | sbcN _ | andN _ | xorN _ | orN _ | cpN _ | rst _ => rfl
  | _ => nomatch ht

theorem execIndexedBitSlot_eq_exec {i : Instr} {xy : IndexReg} (ht : i.table = .indexedBit xy) (s : State) :
    execIndexedBitSlot i s = exec i s := by
  cases i with
  | rlcIndXy _ _ | rlcIndXyR _ _ _ | rrcIndXy _ _ | rrcIndXyR _ _ _ | rlIndXy _ _ | rlIndXyR _ _ _ | rrIndXy _ _
  | rrIndXyR _ _ _ | slaIndXy _ _ | slaIndXyR _ _ _ | sraIndXy _ _ | sraIndXyR _ _ _ | sllIndXy _ _ | sllIndXyR _ _ _
  | srlIndXy _ _ | srlIndXyR _ _ _ | bitIndXy _ _ _ _ | resIndXy _ _ _ | resIndXyR _ _ _ _ | setIndXy _ _ _
  | setIndXyR _ _ _ _ => rfl
  | _ => nomatch ht

theorem exec_xyStandard {xy : IndexReg} {i : Instr} (h : (Instr.xyStandard xy i).wf = true) (s : State) :
    exec (.xyStandard xy i) s = exec i s := by
  obtain ⟨ht, hr, -⟩ := Instr.wf_xyStandard.1 h
  exact execStandardSlot_eq_exec ht hr s

theorem exec_indexedBit {xy : IndexReg} {i : Instr} (h : (Instr.indexedBit xy i).wf = true) (s : State) :
    exec (.indexedBit xy i) s = exec i s :=
  execIndexedBitSlot_eq_exec (Instr.wf_indexedBit.1 h).1 s

/-! ### Every well-formed instruction gives a next state -/

/-- The outcome of a handler that ends with `complete()` (R111). -/
def Completes (o : Result) : Prop := ∃ t k, o = .next (State.complete t k)

theorem State.finish_completes (s : State) (total fetches : Nat) : Completes (s.finish total fetches) := ⟨_, _, rfl⟩

/-- A handler with two ends. -/
theorem Completes.ite {c : Prop} [Decidable c] {o o' : Result} (h : Completes o) (h' : Completes o') :
    Completes (if c then o else o') := by
  split
  · exact h
  · exact h'

theorem isPrefix_of_not_replacedByIndex {i : Instr} (ht : i.table = .standard) (hr : i.replacedByIndex = false) :
    i.isPrefix = false := by
  cases i with
  | prefixCb | prefixDd | prefixEd | prefixFd => nomatch hr
  | xyPrefixDd _ | xyPrefixFd _ | xyPrefixEd _ => nomatch ht
  | _ => rfl

theorem isPrefix_of_table_indexedBit {i : Instr} {xy : IndexReg} (ht : i.table = .indexedBit xy) : i.isPrefix = false := by
  cases i with
  | prefixCb | prefixDd | prefixEd | prefixFd | xyPrefixDd _ | xyPrefixFd _ | xyPrefixEd _ => nomatch ht
  | _ => rfl

/-- R111: an instruction that is no prefix byte completes; the two hand-over slots do what the instruction they hold does. -/
theorem exec_completes {i : Instr} (h : i.wf = true) (hp : i.isPrefix = false) (s : State) : Completes (exec i s) := by
  induction i with
  | xyStandard xy i ih =>
    obtain ⟨ht, hr, hw⟩ := Instr.wf_xyStandard.1 h
    rw [exec_xyStandard h]
    exact ih hw (isPrefix_of_not_replacedByIndex ht hr)
  | indexedBit xy i ih =>
    obtain ⟨ht, hw⟩ := Instr.wf_indexedBit.1 h
    rw [exec_indexedBit h]
    exact ih hw (isPrefix_of_table_indexedBit ht)
  | djnz _ | jrCc _ _ | retCc _ | jpCcNn _ _ | callCcNn _ _ | ldir | lddr | cpir | cpdr | inir | indr | otir | otdr =>
    exact .ite (State.finish_completes _ _ _) (State.finish_completes _ _ _)
  | prefixCb | prefixDd | prefixEd | prefixFd | xyPrefixDd _ | xyPrefixFd _ | xyPrefixEd _ => nomatch hp
  | _ => exact State.finish_completes _ _ _

/-- A prefix byte is consumed (R112, R113). -/
theorem exec_next_of_isPrefix {i : Instr} (hp : i.isPrefix = true) (s : State) : ∃ t, exec i s = .next t := by
  cases i with
  | prefixCb | prefixDd | prefixEd | prefixFd | xyPrefixDd _ | xyPrefixFd _ | xyPrefixEd _ => exact ⟨_, rfl⟩
  | _ => nomatch hp

theorem exec_next_of_wf {i : Instr} (h : i.wf = true) (s : State) : ∃ t, exec i s = .next t := by
  cases hp : i.isPrefix with
  | true => exact exec_next_of_isPrefix hp s
  | false =>
    obtain ⟨t, k, ht⟩ := exec_completes h hp s
    exact ⟨_, ht⟩

/-- What a fetch step dispatches is an instruction of the table it reads in (R100, R110, R123). -/
theorem State.nextInstr_slotOf (s : State) : s.nextInstr.SlotOf s.table := decodeSlot_slotOf _ _ _ _

/-- Settles O8: the signals and the halted step give a next state, and a fetch step dispatches a well-formed instruction, which
does. -/
theorem noStepStops : Obligations.NoStepStops := by
  intro s
  obtain ⟨-, h⟩ | ⟨-, -, h⟩ | ⟨-, -, -, h⟩ | ⟨-, -, -, -, h⟩ | ⟨-, h⟩ := step_cases (s := s) rfl
  · exact ⟨_, h⟩
  · exact ⟨_, h⟩
  · exact ⟨_, h⟩
  · exact ⟨_, h⟩
  · rw [h]
    exact exec_next_of_wf (State.nextInstr_slotOf _).wf _

end Sys2Proof.Machine
end

section
/-! Addresses with a displacement and the stack (00_scope.md R8, R12; 41_load16_stack.md R180 to R183). -/

namespace Sys2Proof.Machine

/-! ### Displacements (R8, R116, R383) -/

theorem add_sext8 (v : Word) (d : Byte) : v + sext8 d = BitVec.ofInt 16 (v.toNat + d.toInt) := by
  rw [BitVec.ofInt_add, BitVec.ofInt_natCast, BitVec.ofNat_toNat, BitVec.setWidth_eq]
  rfl

/-- Settles O33: both addresses are one sum, of a word and a sign-extended byte. -/
theorem displacedAddresses : Obligations.DisplacedAddresses :=
  fun s xy d => ⟨add_sext8 (s.xy xy) d, add_sext8 s.pc d⟩

/-! ### Pairs written from two bytes (R21) -/

theorem State.setBc_join (s : State) (h l : Byte) :
    s.setBc (join h l) = { s with main := { s.main with b := h, c := l } } := by rw [State.setBc, hi_join, lo_join]

theorem State.setDe_join (s : State) (h l : Byte) :
    s.setDe (join h l) = { s with main := { s.main with d := h, e := l } } := by rw [State.setDe, hi_join, lo_join]

theorem State.setHl_join (s : State) (h l : Byte) :
    s.setHl (join h l) = { s with main := { s.main with h := h, l := l } } := by rw [State.setHl, hi_join, lo_join]

theorem State.setStackPair_af_join (s : State) (a f : Byte) :
    s.setStackPair .af (join a f) = { s with main := { s.main with a := a, f := f } } := by
  rw [State.setStackPair, hi_join, lo_join]
  rfl

/-! ### Pushing (R12, R180, R181) -/

/-- A pushed word, its stores and the whole next state, when `h` and `l` are the word's halves. -/
theorem State.complete_push16 (s : State) {v : Word} {h l : Byte} (hh : hi v = h) (hl : lo v = l) (k : Nat) :
    s.stores ((s.push16 v).complete k) [(s.sp - 2, l), (s.sp - 1, h)] ∧
      (s.push16 v).complete k = State.done { s with
        sp := s.sp - 2, mem := (s.push16 v).mem
        bus := .memWrite (s.sp - 2) l :: .memWrite (s.sp - 1) h :: s.bus } k := by
  subst hh hl
  rw [← sub_one_sub_one]
  exact ⟨State.stores_two (s.push16_mem v), rfl⟩

theorem State.content_push16_low {s : State} (h : s.memKind (s.sp - 2) = .ram) (v : Word) :
    (s.push16 v).content (s.sp - 2) = lo v := by
  rw [State.content_push16, sub_one_sub_one, if_pos ⟨rfl, h⟩]

theorem State.content_push16_high {s : State} (h : s.memKind (s.sp - 1) = .ram) (v : Word) :
    (s.push16 v).content (s.sp - 1) = hi v := by
  have hne : s.sp - 1 ≠ s.sp - 1 - 1 := by bv_omega
  rw [State.content_push16, if_neg (fun e => hne e.1), if_pos ⟨rfl, h⟩]

/-! ### Popping (R12, R182, R183) -/

theorem State.pop16_snd (s : State) :
    s.pop16.2 = { s with
      sp := s.sp + 2, bus := .memRead (s.sp + 1) (s.peekNext s.sp) :: .memRead s.sp (s.peek s.sp) :: s.bus } := by
  rw [← add_one_add_one]
  rfl

theorem exec_popQq (qq : StackPair) (s : State) :
    exec (.popQq qq) s = .next ((s.pop16.2.setStackPair qq s.pop16.1).complete 6) := rfl

theorem exec_popXy (xy : IndexReg) (s : State) :
    exec (.popXy xy) s = .next ((s.pop16.2.setXy xy s.pop16.1).complete 6) := rfl

/-- After a push of `v` by a handler that charged `k`, with the registers `m`, `x`, `y` put in: where the pop of O38 runs. -/
def State.afterPush (s : State) (v : Word) (k : Nat) (m : RegSet) (x y : Word) : State :=
  { (s.push16 v).complete k with main := m, ix := x, iy := y }

section
variable {s : State} {v : Word} {k : Nat} {m : RegSet} {x y : Word}
  (h₁ : s.memKind (s.sp - 1) = .ram) (h₂ : s.memKind (s.sp - 2) = .ram)
include h₁ h₂

/-- A pop gives back the word pushed last and the old `SP`, where RAM stands at both addresses (R82). -/
theorem State.pop16_afterPush :
    (s.afterPush v k m x y).pop16 =
      (v, { s.afterPush v k m x y with sp := s.sp, bus := (s.afterPush v k m x y).pop16.2.bus }) := by
  generalize ht : s.afterPush v k m x y = t
  have hsp : t.sp = s.sp - 2 := by rw [← ht, ← sub_one_sub_one]; rfl
  have hmem : t.mem = (s.push16 v).mem := by rw [← ht]; rfl
  have hk := State.memKind_eq_of_regions (s := s) (t := t) (by rw [← ht]; rfl)
  have hnext : t.sp + 1 = s.sp - 1 := by rw [hsp]; bv_omega
  have hback : t.sp + 1 + 1 = s.sp := by rw [hsp]; bv_omega
  have hlow : t.peek t.sp = lo v := by
    have hplain : t.memKind t.sp ≠ .device := by rw [hk, hsp, h₂]; nofun
    rw [State.peek_of_plain hplain, State.content_eq_of_mem hmem, hsp, State.content_push16_low h₂]
  have hhigh : t.peekNext t.sp = hi v := by
    have hplain : t.memKind (t.sp + 1) ≠ .device := by rw [hk, hnext, h₁]; nofun
    rw [State.peekNext_of_plain hplain, State.content_eq_of_mem hmem, hnext, State.content_push16_high h₁]
  rw [State.pop16_eq, hlow, hhigh, join_hi_lo, hback]

theorem exec_popQq_afterPush (qq : StackPair) :
    exec (.popQq qq) (s.afterPush v k m x y) = .next ((State.setStackPair
      { s.afterPush v k m x y with sp := s.sp, bus := (s.afterPush v k m x y).pop16.2.bus } qq v).complete 6) := by
  rw [exec_popQq, State.pop16_afterPush h₁ h₂]

theorem exec_popXy_afterPush (xy : IndexReg) :
    exec (.popXy xy) (s.afterPush v k m x y) = .next ((State.setXy
      { s.afterPush v k m x y with sp := s.sp, bus := (s.afterPush v k m x y).pop16.2.bus } xy v).complete 6) := by
  rw [exec_popXy, State.pop16_afterPush h₁ h₂]

end

/-- Settles O38: a pop takes its two bytes where the push of that word put them. -/
theorem pushAndPop : Obligations.PushAndPop := by
  intro s
  refine ⟨⟨?_, ?_, ?_, ?_, ?_, ?_⟩, ⟨?_, ?_, ?_, ?_, ?_, ?_⟩, fun h₁ h₂ m x y => ⟨?_, ?_, ?_, ?_, ?_, ?_⟩⟩
  -- the six pushes
  · exact ⟨_, rfl, s.complete_push16 (hi_join _ _) (lo_join _ _) 7⟩
  · exact ⟨_, rfl, s.complete_push16 (hi_join _ _) (lo_join _ _) 7⟩
  · exact ⟨_, rfl, s.complete_push16 (hi_join _ _) (lo_join _ _) 7⟩
  · exact ⟨_, rfl, s.complete_push16 (hi_join _ _) (lo_join _ _) 7⟩
  · exact ⟨_, rfl, s.complete_push16 rfl rfl 7⟩
  · exact ⟨_, rfl, s.complete_push16 rfl rfl 7⟩
  -- the six pops
  · rw [exec_popQq, State.pop16_fst, State.setStackPair, State.setBc_join, State.pop16_snd]; rfl
  · rw [exec_popQq, State.pop16_fst, State.setStackPair, State.setDe_join, State.pop16_snd]; rfl
  · rw [exec_popQq, State.pop16_fst, State.setStackPair, State.setHl_join, State.pop16_snd]; rfl
  · rw [exec_popQq, State.pop16_fst, State.setStackPair_af_join, State.pop16_snd]; rfl
  · rw [exec_popXy, State.pop16_snd]; rfl
  · rw [exec_popXy, State.pop16_snd]; rfl
  -- each pair pushed and popped again
  · exact ⟨_, _, rfl, exec_popQq_afterPush h₁ h₂ .bc, congrArg State.main (State.setBc_join _ _ _), rfl, rfl, rfl, rfl⟩
  · exact ⟨_, _, rfl, exec_popQq_afterPush h₁ h₂ .de, congrArg State.main (State.setDe_join _ _ _), rfl, rfl, rfl, rfl⟩
  · exact ⟨_, _, rfl, exec_popQq_afterPush h₁ h₂ .hl, congrArg State.main (State.setHl_join _ _ _), rfl, rfl, rfl, rfl⟩
  · exact ⟨_, _, rfl, exec_popQq_afterPush h₁ h₂ .af, congrArg State.main (State.setStackPair_af_join _ _ _), rfl, rfl,
      rfl, rfl⟩
  · exact ⟨_, _, rfl, exec_popXy_afterPush h₁ h₂ .ix, rfl, rfl, rfl, rfl, rfl⟩
  · exact ⟨_, _, rfl, exec_popXy_afterPush h₁ h₂ .iy, rfl, rfl, rfl, rfl, rfl⟩

end Sys2Proof.Machine
end

section
/-! What a step writes outside the register file, memory and ports: the shadow set, the special registers, the requests and the
clock (10_state.md R22, R32 to R41). -/

namespace Sys2Proof.Machine

/-! ### The control part of a state -/

/-- The state with every field blanked that an ordinary handler writes, and `PREFIX` and `INDEX`. What is left: the shadow
set, the special registers, the requests, the clock and what stands behind the accesses. -/
def State.controlPart (s : State) : State :=
  { State.reset with
    shadow := s.shadow, i := s.i, r := s.r, iff1 := s.iff1, iff2 := s.iff2, im := s.im, halted := s.halted,
    intBlocked := s.intBlocked, resetReq := s.resetReq, nmiReq := s.nmiReq, intReq := s.intReq, clk := s.clk,
    regions := s.regions, platform := s.platform }

/-- What an ordinary handler writes is not in the control part. -/
@[simp] theorem State.controlPart_update (s : State) (main : RegSet) (ix iy sp pc wz : Word) (mem : Memory)
    (answers : List Byte) (reads : Nat) (bus : List BusAccess) :
    State.controlPart { s with
      main := main, ix := ix, iy := iy, sp := sp, pc := pc, wz := wz, mem := mem, portAnswers := answers,
      portReads := reads, bus := bus } = s.controlPart := rfl

@[simp] theorem State.controlPart_record (s : State) (x : BusAccess) : (s.record x).controlPart = s.controlPart :=
  s.controlPart_update ..

@[simp] theorem State.controlPart_memRead (s : State) (a : Word) : (s.memRead a).2.controlPart = s.controlPart :=
  s.controlPart_update ..

@[simp] theorem State.controlPart_memWrite (s : State) (a : Word) (v : Byte) :
    (s.memWrite a v).controlPart = s.controlPart := s.controlPart_update ..

@[simp] theorem State.controlPart_portRead (s : State) (p : Word) : (s.portRead p).2.controlPart = s.controlPart :=
  s.controlPart_update ..

@[simp] theorem State.controlPart_portWrite (s : State) (p : Word) (v : Byte) :
    (s.portWrite p v).controlPart = s.controlPart := s.controlPart_update ..

@[simp] theorem State.controlPart_memRead16 (s : State) (a : Word) : (s.memRead16 a).2.controlPart = s.controlPart :=
  s.controlPart_update ..

@[simp] theorem State.controlPart_memWrite16 (s : State) (a v : Word) : (s.memWrite16 a v).controlPart = s.controlPart :=
  s.controlPart_update ..

@[simp] theorem State.controlPart_push16 (s : State) (v : Word) : (s.push16 v).controlPart = s.controlPart :=
  s.controlPart_update ..

@[simp] theorem State.controlPart_pop16 (s : State) : s.pop16.2.controlPart = s.controlPart := s.controlPart_update ..

@[simp] theorem State.controlPart_jump (s : State) (v : Word) : (s.jump v).controlPart = s.controlPart :=
  s.controlPart_update ..

@[simp] theorem State.controlPart_call (s : State) (v : Word) : (s.call v).controlPart = s.controlPart :=
  s.controlPart_update ..

@[simp] theorem State.controlPart_ret (s : State) : s.ret.controlPart = s.controlPart := s.controlPart_update ..

@[simp] theorem State.controlPart_rewind (s : State) : s.rewind.controlPart = s.controlPart := s.controlPart_update ..

@[simp] theorem State.controlPart_exchangeStack (s : State) (v : Word) :
    (s.exchangeStack v).2.controlPart = s.controlPart := by
  simp [State.exchangeStack, State.memRead16]

@[simp] theorem State.controlPart_setF (s : State) (v : Byte) : (s.setF v).controlPart = s.controlPart :=
  s.controlPart_update ..

@[simp] theorem State.controlPart_setAF (s : State) (v : Byte × Byte) : (s.setAF v).controlPart = s.controlPart :=
  s.controlPart_update ..

@[simp] theorem State.controlPart_setBc (s : State) (v : Word) : (s.setBc v).controlPart = s.controlPart :=
  s.controlPart_update ..

@[simp] theorem State.controlPart_setDe (s : State) (v : Word) : (s.setDe v).controlPart = s.controlPart :=
  s.controlPart_update ..

@[simp] theorem State.controlPart_setHl (s : State) (v : Word) : (s.setHl v).controlPart = s.controlPart :=
  s.controlPart_update ..

@[simp] theorem State.controlPart_setWz (s : State) (v : Word) : (s.setWz v).controlPart = s.controlPart :=
  s.controlPart_update ..

@[simp] theorem State.controlPart_setReg (s : State) (r : Reg8) (v : Byte) :
    (s.setReg r v).controlPart = s.controlPart := by
  cases r <;> exact s.controlPart_update ..

@[simp] theorem State.controlPart_setPair (s : State) (dd : Pair) (v : Word) :
    (s.setPair dd v).controlPart = s.controlPart := by
  cases dd <;> exact s.controlPart_update ..

@[simp] theorem State.controlPart_setStackPair (s : State) (qq : StackPair) (v : Word) :
    (s.setStackPair qq v).controlPart = s.controlPart := by
  cases qq <;> exact s.controlPart_update ..

@[simp] theorem State.controlPart_setXy (s : State) (xy : IndexReg) (v : Word) :
    (s.setXy xy v).controlPart = s.controlPart := by
  cases xy <;> exact s.controlPart_update ..

@[simp] theorem State.controlPart_setHalf (s : State) (xy : IndexReg) (h : Half) (v : Byte) :
    (s.setHalf xy h v).controlPart = s.controlPart := by
  cases h <;> exact s.controlPart_setXy xy _

@[simp] theorem State.controlPart_setIndexedReg (s : State) (xy : IndexReg) (r : Reg8) (v : Byte) :
    (s.setIndexedReg xy r v).controlPart = s.controlPart := by
  cases r <;> simp [State.setIndexedReg]

@[simp] theorem State.controlPart_accumulate (s : State) (op : AluOp) (v : Byte) :
    (s.accumulate op v).controlPart = s.controlPart := s.controlPart_setAF _

@[simp] theorem State.controlPart_accumulateAt (s : State) (op : AluOp) (a : Word) :
    (s.accumulateAt op a).controlPart = s.controlPart := s.controlPart_update ..

@[simp] theorem State.controlPart_accumulateIndexed (s : State) (op : AluOp) (xy : IndexReg) (d : Byte) :
    (s.accumulateIndexed op xy d).controlPart = s.controlPart := by
  simp [State.accumulateIndexed, State.indexedAddress]

@[simp] theorem State.controlPart_modifyAt (s : State) (g : Byte → Byte → Byte × Byte) (a : Word) :
    (s.modifyAt g a).2.controlPart = s.controlPart := s.controlPart_update ..

@[simp] theorem State.controlPart_modifyIndexed (s : State) (g : Byte → Byte → Byte × Byte) (xy : IndexReg) (d : Byte) :
    (s.modifyIndexed g xy d).2.controlPart = s.controlPart := by
  simp [State.modifyIndexed, State.indexedAddress]

@[simp] theorem State.controlPart_modifyReg (s : State) (g : Byte → Byte → Byte × Byte) (r : Reg8) :
    (s.modifyReg g r).controlPart = s.controlPart := s.controlPart_setReg r _

@[simp] theorem State.controlPart_modifyHalf (s : State) (g : Byte → Byte → Byte × Byte) (xy : IndexReg) (h : Half) :
    (s.modifyHalf g xy h).controlPart = s.controlPart := s.controlPart_setHalf xy h _

@[simp] theorem State.controlPart_loadA (s : State) (a : Word) : (s.loadA a).controlPart = s.controlPart :=
  s.controlPart_update ..

@[simp] theorem State.controlPart_storeA (s : State) (a : Word) : (s.storeA a).controlPart = s.controlPart :=
  s.controlPart_update ..

@[simp] theorem State.controlPart_digitRotate (s : State) (mem acc : Byte → Byte → Byte) :
    (s.digitRotate mem acc).controlPart = s.controlPart := s.controlPart_update ..

@[simp] theorem State.controlPart_inC (s : State) : s.inC.2.controlPart = s.controlPart := s.controlPart_update ..

@[simp] theorem State.controlPart_ldBlock (s : State) (dir : Word) : (s.ldBlock dir).controlPart = s.controlPart := by
  simp [State.ldBlock, State.memRead]

@[simp] theorem State.controlPart_cpBlock (s : State) (dir : Word) : (s.cpBlock dir).2.controlPart = s.controlPart := by
  simp [State.cpBlock, State.memRead]

@[simp] theorem State.controlPart_inBlock (s : State) (dir : Word) : (s.inBlock dir).controlPart = s.controlPart := by
  simp [State.inBlock, State.portRead]

@[simp] theorem State.controlPart_outBlock (s : State) (dir : Word) : (s.outBlock dir).controlPart = s.controlPart := by
  simp [State.outBlock, State.memRead]

/-- `t` has the control part of `c`, with T-states charged. -/
def State.ChargedOver (c t : State) : Prop := ∃ k, t.controlPart = { c.controlPart with clk := c.clk + k }

/-! ### What an instruction does to the control part -/

/-- The instructions that write outside the register file, memory and ports, and what they write (R22, R32 to R37, R451). -/
def State.controlEffect (s : State) : Instr → State
  | .exAfAf => { s with shadow := { s.shadow with a := s.main.a, f := s.main.f } }
  | .exx => { s with shadow := { s.main with a := s.shadow.a, f := s.shadow.f } }
  | .ldIA => { s with i := s.main.a }
  | .ldRA => { s with r := s.main.a }
  | .im0 _ _ => { s with im := .mode0 }
  | .im1 _ => { s with im := .mode1 }
  | .im2 _ => { s with im := .mode2 }
  | .di => { s with iff1 := false, iff2 := false }
  | .ei => { s with iff1 := true, iff2 := true, intBlocked := true }
  | .retn _ | .reti => { s with iff1 := s.iff2 }
  | .halt => { s with halted := true }
  | .prefixCb | .prefixDd | .prefixEd | .prefixFd | .xyPrefixDd _ | .xyPrefixFd _ | .xyPrefixEd _ =>
    { s with intBlocked := true }
  | _ => s

/-! ### Outcomes -/

/-- The outcome is a next state, and it meets `P`. -/
def Yields (P : State → Prop) (o : Result) : Prop := ∃ t, o = .next t ∧ P t

theorem Yields.of_eq {P : State → Prop} {o : Result} {t : State} (h : Yields P o) (ht : o = .next t) : P t := by
  obtain ⟨u, hu, hp⟩ := h
  cases hu.symm.trans ht
  exact hp

/-- A handler with two ends. -/
theorem Yields.ite {P : State → Prop} {o o' : Result} {c : Prop} [Decidable c] (h : Yields P o) (h' : Yields P o') :
    Yields P (if c then o else o') := by
  split
  · exact h
  · exact h'

/-- `complete()` charges T-states. -/
theorem Yields.charged {c s : State} (h : s.controlPart = c.controlPart) (total fetches : Nat) :
    Yields c.ChargedOver (s.finish total fetches) :=
  ⟨_, rfl, _, congrArg (fun u : State => { u with clk := u.clk + (total - Config.tFetch * fetches) }) h⟩

/-- A block comparison that may repeat, in either direction (R211, R213). -/
theorem cpBlock_repeat_charged (s : State) (dir : Word) :
    Yields s.ChargedOver (let (r, t) := s.cpBlock dir; t.finishRepeat (t.bc ≠ 0 && r ≠ 0)) :=
  .ite (.charged (by simp) _ _) (.charged (by simp) _ _)

/-! ### Handing over (R114 item 5, R115) -/

theorem handler_of_table_standard {i : Instr} (h : i.table = .standard) : i.handler = i := by
  cases i with
  | xyStandard _ _ | indexedBit _ _ => nomatch h
  | _ => rfl

theorem handler_of_table_indexedBit {i : Instr} {xy : IndexReg} (h : i.table = .indexedBit xy) : i.handler = i := by
  cases i with
  | xyStandard _ _ | indexedBit _ _ => nomatch h
  | _ => rfl

/-- A well-formed term runs the handler of the instruction it hands over to, which itself hands over to none. -/
theorem exec_handler {i : Instr} (h : i.wf = true) : i.handler.handler = i.handler ∧ ∀ s, exec i s = exec i.handler s := by
  cases i with
  | xyStandard xy i => exact ⟨handler_of_table_standard (Instr.wf_xyStandard.1 h).1, exec_xyStandard h⟩
  | indexedBit xy i => exact ⟨handler_of_table_indexedBit (Instr.wf_indexedBit.1 h).1, exec_indexedBit h⟩
  | _ => exact ⟨rfl, fun _ => rfl⟩

/-- A handler writes of the control part what `State.controlEffect` says and charges T-states. -/
theorem exec_handler_charged {i : Instr} (h : i.handler = i) (s : State) :
    Yields (State.ChargedOver (s.controlEffect i)) (exec i s) := by
  cases i with
  | xyStandard _ _ | indexedBit _ _ => nomatch h
  | prefixCb | prefixDd | prefixEd | prefixFd | xyPrefixDd _ | xyPrefixFd _ | xyPrefixEd _ => exact ⟨_, rfl, 0, rfl⟩
  | exAfAf | exx | ldIA | ldRA | im0 _ _ | im1 _ | im2 _ | di | retn _ | reti | halt => exact .charged rfl _ _
  | ei => exact .charged (by simp [State.controlPart, State.controlEffect, Config.eiDelay]) _ _
  | cpir | cpdr => exact cpBlock_repeat_charged s _
  | djnz _ | jrCc _ _ | retCc _ | jpCcNn _ _ | callCcNn _ _ | ldir | lddr | inir | indr | otir | otdr =>
    exact .ite (.charged (c := s) (by simp) _ _) (.charged (c := s) (by simp) _ _)
  | _ => exact .charged (c := s) (by simp) _ _

/-- The same of every well-formed term, which may hand over. -/
theorem exec_charged {i : Instr} (h : i.wf = true) (s : State) :
    Yields (State.ChargedOver (s.controlEffect i.handler)) (exec i s) := by
  obtain ⟨hh, he⟩ := exec_handler h
  rw [he]
  exact exec_handler_charged hh s

end Sys2Proof.Machine
end

section
/-! Who writes `F` (10_state.md R30). -/

namespace Sys2Proof.Machine

/-- `t` has the flag byte of `s`. -/
def State.SameF (s t : State) : Prop := t.main.f = s.main.f

theorem Yields.sameF {s t : State} (h : t.main.f = s.main.f) (total fetches : Nat) :
    Yields s.SameF (t.finish total fetches) := ⟨_, rfl, h⟩

@[simp] theorem State.setPair_main_f (s : State) (dd : Pair) (v : Word) : (s.setPair dd v).main.f = s.main.f := by
  cases dd <;> rfl

@[simp] theorem State.setIndexedReg_main_f (s : State) (xy : IndexReg) (r : Reg8) (v : Byte) :
    (s.setIndexedReg xy r v).main.f = s.main.f := by
  cases r <;> simp [State.setIndexedReg]

@[simp] theorem State.modifyIndexed_main (s : State) (g : Byte → Byte → Byte × Byte) (xy : IndexReg) (d : Byte) :
    (s.modifyIndexed g xy d).2.main = { s.main with f := (g (s.peek (s.ea xy d)) s.main.f).2 } := by
  simp [State.modifyIndexed, State.indexedAddress]

@[simp] theorem State.exchangeStack_main (s : State) (v : Word) : (s.exchangeStack v).2.main = s.main := by
  simp [State.exchangeStack, State.memRead16]

@[simp] theorem State.call_main (s : State) (v : Word) : (s.call v).main = s.main := rfl

@[simp] theorem State.ret_main (s : State) : s.ret.main = s.main := rfl

@[simp] theorem State.returnFromSignal_main (s : State) : s.returnFromSignal.main = s.main := rfl

@[simp] theorem State.loadA_main_f (s : State) (a : Word) : (s.loadA a).main.f = s.main.f := rfl

@[simp] theorem State.storeA_main (s : State) (a : Word) : (s.storeA a).main = s.main := rfl

/-- A handler that is not on the list of R30 keeps `F`; `SET` and `RES` give back the flags they are given. -/
theorem exec_handler_sameF {i : Instr} (h : i.handler = i) (hf : i.writesF = false) (s : State) :
    Yields s.SameF (exec i s) := by
  cases i with
  | xyStandard _ _ | indexedBit _ _ => nomatch h
  | prefixCb | prefixDd | prefixEd | prefixFd | xyPrefixDd _ | xyPrefixFd _ | xyPrefixEd _ => exact ⟨_, rfl, rfl⟩
  | djnz _ | jrCc _ _ | retCc _ | jpCcNn _ _ | callCcNn _ _ => exact .ite (.sameF (by simp) _ _) (.sameF (by simp) _ _)
  | popQq qq =>
    cases qq with
    | af => nomatch hf
    | bc | de | hl => exact .sameF rfl _ _
  | nop | jr _ | ldDdNn _ _ | ldIndBcA | ldIndDeA | ldIndNnHl _ | ldIndNnA _ | ldAIndBc | ldAIndDe | ldHlIndNn _
  | ldAIndNn _ | incSs _ | decSs _ | ldRN _ _ | ldIndHlN _ | halt | ldIndHlR _ | ldRIndHl _ | ldRR _ _ | ret | exx
  | jpIndHl | ldSpHl | jpNn _ | outIndNA _ | inAIndN _ | exIndSpHl | exDeHl | di | ei | pushQq _ | callNn _ | rst _
  | outIndCR _ | outIndC0 | ldIndNnDd _ _ | ldDdIndNn _ _ | retn _ | reti | im0 _ _ | im1 _ | im2 _ | ldIA | ldRA
  | edNop _ | ldXyNn _ _ | ldIndNnXy _ _ | ldXyIndNn _ _ | incXy _ | decXy _ | ldXyHalfN _ _ _ | ldIndXyN _ _ _
  | ldRIndXy _ _ _ | ldIndXyR _ _ _ | ldRRXy _ _ _ | popXy _ | pushXy _ | exIndSpXy _ | jpIndXy _ | ldSpXy _ =>
    exact .sameF (by simp) _ _
  | setR _ _ | resR _ _ | setIndHl _ | resIndHl _ | setIndXy _ _ _ | resIndXy _ _ _ | setIndXyR _ _ _ _
  | resIndXyR _ _ _ _ => exact .sameF (by simp [State.modifyReg_eq, setBit, resetBit]) _ _
  | _ => nomatch hf

end Sys2Proof.Machine
end

section
/-! What a step leaves in the control part, and the statements of 10_state.md. -/

namespace Sys2Proof.Machine

/-! ### Fields of the control part -/

section
variable {c t : State} (h : c.ChargedOver t)
include h

theorem State.ChargedOver.shadow : t.shadow = c.shadow := h.elim fun _ e => (congrArg State.shadow e :)
theorem State.ChargedOver.i : t.i = c.i := h.elim fun _ e => (congrArg State.i e :)
theorem State.ChargedOver.r : t.r = c.r := h.elim fun _ e => (congrArg State.r e :)
theorem State.ChargedOver.iff1 : t.iff1 = c.iff1 := h.elim fun _ e => (congrArg State.iff1 e :)
theorem State.ChargedOver.iff2 : t.iff2 = c.iff2 := h.elim fun _ e => (congrArg State.iff2 e :)
theorem State.ChargedOver.im : t.im = c.im := h.elim fun _ e => (congrArg State.im e :)
theorem State.ChargedOver.halted : t.halted = c.halted := h.elim fun _ e => (congrArg State.halted e :)
theorem State.ChargedOver.intBlocked : t.intBlocked = c.intBlocked := h.elim fun _ e => (congrArg State.intBlocked e :)
theorem State.ChargedOver.resetReq : t.resetReq = c.resetReq := h.elim fun _ e => (congrArg State.resetReq e :)
theorem State.ChargedOver.nmiReq : t.nmiReq = c.nmiReq := h.elim fun _ e => (congrArg State.nmiReq e :)
theorem State.ChargedOver.intReq : t.intReq = c.intReq := h.elim fun _ e => (congrArg State.intReq e :)
theorem State.ChargedOver.regions : t.regions = c.regions := h.elim fun _ e => (congrArg State.regions e :)
theorem State.ChargedOver.platform : t.platform = c.platform := h.elim fun _ e => (congrArg State.platform e :)

theorem State.ChargedOver.clk_le : c.clk ≤ t.clk := h.elim fun _ e => Nat.le.intro (congrArg State.clk e).symm

end

theorem State.ChargedOver.congr {c c' t : State} (h : c.ChargedOver t) (hc : c.controlPart = c'.controlPart) :
    c'.ChargedOver t := by
  obtain ⟨k, e⟩ := h
  exact ⟨k, e.trans (congrArg (fun u : State => { u with clk := u.clk + k }) hc)⟩

/-! ### What the effect of an instruction leaves as it is -/

section
variable (s : State) {i : Instr}

theorem State.controlEffect_shadow (h : ¬ (i = .exAfAf ∨ i = .exx)) : (s.controlEffect i).shadow = s.shadow := by
  cases i with
  | exAfAf => exact absurd (.inl rfl) h
  | exx => exact absurd (.inr rfl) h
  | _ => rfl

theorem State.controlEffect_i (h : i ≠ .ldIA) : (s.controlEffect i).i = s.i := by
  cases i with
  | ldIA => exact absurd rfl h
  | _ => rfl

theorem State.controlEffect_r (h : i ≠ .ldRA) : (s.controlEffect i).r = s.r := by
  cases i with
  | ldRA => exact absurd rfl h
  | _ => rfl

theorem State.controlEffect_im (h : ¬ ∃ u v, i = .im0 u v ∨ i = .im1 u ∨ i = .im2 u) :
    (s.controlEffect i).im = s.im := by
  cases i with
  | im0 u v => exact absurd ⟨u, v, .inl rfl⟩ h
  | im1 u => exact absurd ⟨u, false, .inr (.inl rfl)⟩ h
  | im2 u => exact absurd ⟨u, false, .inr (.inr rfl)⟩ h
  | _ => rfl

theorem State.controlEffect_iff2 (h : ¬ (i = .ei ∨ i = .di)) : (s.controlEffect i).iff2 = s.iff2 := by
  cases i with
  | ei => exact absurd (.inl rfl) h
  | di => exact absurd (.inr rfl) h
  | _ => rfl

theorem State.controlEffect_iff1 (h : ¬ (i = .ei ∨ i = .di ∨ i = .reti ∨ ∃ y, i = .retn y)) :
    (s.controlEffect i).iff1 = s.iff1 := by
  cases i with
  | ei => exact absurd (.inl rfl) h
  | di => exact absurd (.inr (.inl rfl)) h
  | reti => exact absurd (.inr (.inr (.inl rfl))) h
  | retn y => exact absurd (.inr (.inr (.inr ⟨y, rfl⟩))) h
  | _ => rfl

theorem State.controlEffect_iff1_set (h : (s.controlEffect i).iff1 = true) :
    s.iff1 = true ∨ i = .ei ∨ i = .reti ∨ ∃ y, i = .retn y := by
  cases i with
  | ei => exact .inr (.inl rfl)
  | reti => exact .inr (.inr (.inl rfl))
  | retn y => exact .inr (.inr (.inr ⟨y, rfl⟩))
  | di => nomatch h
  | _ => exact .inl h

theorem State.controlEffect_halted : (s.controlEffect i).halted = true ↔ s.halted = true ∨ i = .halt := by
  cases i with
  | halt => exact iff_of_true rfl (.inr rfl)
  | _ => exact (or_iff_left nofun).symm

@[simp] theorem State.controlEffect_resetReq : (s.controlEffect i).resetReq = s.resetReq := by
  unfold State.controlEffect
  split <;> rfl

@[simp] theorem State.controlEffect_nmiReq : (s.controlEffect i).nmiReq = s.nmiReq := by
  unfold State.controlEffect
  split <;> rfl

@[simp] theorem State.controlEffect_intReq : (s.controlEffect i).intReq = s.intReq := by
  unfold State.controlEffect
  split <;> rfl

@[simp] theorem State.controlEffect_clk : (s.controlEffect i).clk = s.clk := by
  unfold State.controlEffect
  split <;> rfl

end

/-! ### Signals and steps -/

theorem State.nmiService_charged (s : State) :
    State.ChargedOver { s with halted := false, iff1 := false, nmiReq := false, clk := s.clk + 4 } s.nmiService := by
  unfold State.nmiService
  rw [State.enterSignal_eq]
  exact ⟨7, rfl⟩

theorem State.intService_charged (s : State) :
    State.ChargedOver { s with halted := false, iff1 := false, iff2 := false, clk := s.clk + 4 } s.intService := by
  unfold State.intService
  rw [State.enterSignal_eq]
  dsimp only
  split
  · exact ⟨15, rfl⟩
  · exact ⟨9, rfl⟩
  · exact ⟨9, rfl⟩

theorem State.nmiService_main (s : State) : s.nmiService.main = s.main := by
  unfold State.nmiService
  rw [State.enterSignal_eq]
  rfl

theorem State.intService_main (s : State) : s.intService.main = s.main := by
  unfold State.intService
  rw [State.enterSignal_eq]
  dsimp only
  split <;> rfl

theorem State.fetchStep_sameF {s : State} (h : s.nextInstr.handler.writesF = false) : Yields s.SameF s.fetchStep := by
  obtain ⟨hh, he⟩ := exec_handler s.nextInstr_slotOf.wf
  rw [State.fetchStep, he]
  have hs := exec_handler_sameF hh h (s.afterFetch s.nextInstr)
  rw [State.afterFetch_eq] at hs ⊢
  exact hs

/-- The effect of an instruction does not depend on where it was fetched from. -/
theorem State.controlEffect_fetched (s : State) (i : Instr) (pc : Word) (r : Byte) (clk : Nat) (bus : List BusAccess) :
    (State.controlEffect { s with pc := pc, r := r, clk := clk, bus := bus } i).controlPart =
      (State.controlEffect { s with r := r, clk := clk } i).controlPart := by
  unfold State.controlEffect
  split <;> rfl

theorem State.fetchStep_charged (s : State) :
    Yields (State.ChargedOver (State.controlEffect { s with r := refreshed s.r 1, clk := s.clk + 4 } s.nextInstr.handler))
      s.fetchStep := by
  obtain ⟨t, ht, h⟩ := exec_charged s.nextInstr_slotOf.wf (s.afterFetch s.nextInstr)
  rw [State.afterFetch_eq, incR_eq] at h
  exact ⟨t, ht, h.congr (State.controlEffect_fetched ..)⟩

/-- R110: what each kind of step leaves in the control part; all but the reset step charge 4 T-states or more. -/
theorem step_control_cases {s t : State} (h : step s = .next t) :
    (s.resetReq = true ∧ t = State.resetService { s with intBlocked := false }) ∨
    (s.resetReq = false ∧ s.nmiReq = true ∧ State.ChargedOver
      { s with intBlocked := false, halted := false, iff1 := false, nmiReq := false, clk := s.clk + 4 } t) ∨
    (s.resetReq = false ∧ s.nmiReq = false ∧ s.acceptsInt = true ∧ State.ChargedOver
      { s with intBlocked := false, halted := false, iff1 := false, iff2 := false, clk := s.clk + 4 } t) ∨
    (s.resetReq = false ∧ s.nmiReq = false ∧ s.acceptsInt = false ∧ s.halted = true ∧
      t = { s with intBlocked := false, r := refreshed s.r 1, clk := s.clk + 4 }) ∨
    (s.Fetches ∧ State.ChargedOver (State.controlEffect
      { s with intBlocked := false, r := refreshed s.r 1, clk := s.clk + 4 } s.nextInstr.handler) t) := by
  obtain ⟨hr, e⟩ | ⟨hr, hn, e⟩ | ⟨hr, hn, hi, e⟩ | ⟨hr, hn, hi, hh, e⟩ | ⟨hf, e⟩ := step_cases h
  · cases e
    exact .inl ⟨hr, rfl⟩
  · cases e
    exact .inr (.inl ⟨hr, hn, State.nmiService_charged _⟩)
  · cases e
    exact .inr (.inr (.inl ⟨hr, hn, hi, State.intService_charged _⟩))
  · cases e
    exact .inr (.inr (.inr (.inl ⟨hr, hn, hi, hh, by rw [State.haltedStep, incR_eq]; rfl⟩)))
  · exact .inr (.inr (.inr (.inr ⟨hf, (State.fetchStep_charged _).of_eq e.symm⟩)))

/-- Settles O18: only the effect of an exchange differs in the shadow set. -/
theorem shadowWrittenByExchangesOnly : Obligations.ShadowWrittenByExchangesOnly := by
  intro s t h hx
  obtain ⟨-, rfl⟩ | ⟨-, -, e⟩ | ⟨-, -, -, e⟩ | ⟨-, -, -, -, rfl⟩ | ⟨hf, e⟩ := step_control_cases h
  · rfl
  · exact e.shadow
  · exact e.shadow
  · rfl
  · exact e.shadow.trans (State.controlEffect_shadow _ fun hw => hx ⟨hf, hw⟩)

/-- An instruction of the extended table is dispatched by its own term only. -/
theorem eq_of_handler_extended {i j : Instr} (h : i.wf = true) (hj : j.table = .extended) (e : i.handler = j) : i = j := by
  subst e
  cases i with
  | xyStandard _ i => nomatch (Instr.wf_xyStandard.1 h).1.symm.trans hj
  | indexedBit _ i => nomatch (Instr.wf_indexedBit.1 h).1.symm.trans hj
  | _ => rfl

/-- Settles O20: a signal or a halted step writes fixed values, and a fetch step what the effect of its handler says. -/
theorem controlRegisterWriters : Obligations.ControlRegisterWriters := by
  intro s t h hr
  obtain ⟨hr', -⟩ | ⟨-, hn, e⟩ | ⟨-, hn, hi, e⟩ | ⟨-, hn, hi, hh, rfl⟩ | ⟨hf, e⟩ := step_control_cases h
  -- reset
  · exact absurd (hr.symm.trans hr') Bool.false_ne_true
  -- NMI
  · refine ⟨fun _ => e.i, fun _ => ?_, fun _ => e.im, fun _ _ => e.iff2, fun _ hn' => ?_, fun ht => ?_, ?_⟩
    · simpa [hn] using e.r
    · exact absurd (hn'.symm.trans hn) Bool.false_ne_true
    · exact absurd (e.iff1.symm.trans ht) Bool.false_ne_true
    · simp [e.halted, hn]
  -- maskable interrupt
  · refine ⟨fun _ => e.i, fun _ => ?_, fun _ => e.im, fun _ hi' => ?_, fun _ _ hi' => ?_, fun ht => ?_, ?_⟩
    · simpa [hi] using e.r
    · exact absurd (hi'.symm.trans hi) Bool.false_ne_true
    · exact absurd (hi'.symm.trans hi) Bool.false_ne_true
    · exact absurd (e.iff1.symm.trans ht) Bool.false_ne_true
    · simp [e.halted, hi]
  -- halted step
  · exact ⟨fun _ => rfl, fun _ => by simp [hn, hi], fun _ => rfl, fun _ _ => rfl, fun _ _ _ => rfl, .inl,
      iff_of_true hh ⟨hn, hi, .inl hh⟩⟩
  -- fetch step
  · have ext {j : Instr} : j.table = .extended → s.nextInstr.handler = j → s.nextInstr = j :=
      eq_of_handler_extended s.nextInstr_slotOf.wf
    refine ⟨fun hx => ?_, fun hx => ?_, fun hx => ?_, fun hx _ => ?_, fun hx _ _ => ?_, fun ht => ?_, ?_⟩
    · exact e.i.trans (State.controlEffect_i _ fun hw => hx ⟨hf, hw⟩)
    · simpa [hf.noNmi, hf.noInt] using e.r.trans (State.controlEffect_r _ fun hw => hx ⟨hf, hw⟩)
    · exact e.im.trans (State.controlEffect_im _ fun ⟨u, v, hw⟩ =>
        hx ⟨hf, u, v, hw.imp (ext rfl) (.imp (ext rfl) (ext rfl))⟩)
    · exact e.iff2.trans (State.controlEffect_iff2 _ fun hw => hx ⟨hf, hw⟩)
    · exact e.iff1.trans (State.controlEffect_iff1 _ fun hw =>
        hx ⟨hf, hw.imp_right (.imp_right (.imp (ext rfl) (.imp fun _ => ext rfl)))⟩)
    · exact (State.controlEffect_iff1_set _ (e.iff1.symm.trans ht)).imp_right fun hw =>
        ⟨hf, hw.imp_right (.imp (ext rfl) (.imp fun _ => ext rfl))⟩
    · rw [e.halted, State.controlEffect_halted]
      simp [hf.noNmi, hf.noInt, hf.running]

/-- Settles O19: a signal and a halted step keep the register file, and a fetch step runs a handler off the list. -/
theorem flagsWrittenByTheListOnly : Obligations.FlagsWrittenByTheListOnly := by
  intro s t h hx
  obtain ⟨-, e⟩ | ⟨-, -, e⟩ | ⟨-, -, -, e⟩ | ⟨-, -, -, -, e⟩ | ⟨hf, e⟩ := step_cases h
  · cases e
    rfl
  · cases e
    exact congrArg RegSet.f (State.nmiService_main _)
  · cases e
    exact congrArg RegSet.f (State.intService_main _)
  · cases e
    rfl
  · have hw : s.nextInstr.handler.writesF = false := Bool.eq_false_iff.2 fun hw => hx ⟨hf, hw⟩
    exact (State.fetchStep_sameF (s := { s with intBlocked := false }) hw).of_eq e.symm

/-! ### The host and the clock -/

theorem State.betweenInstructions_of_pending {s : State} (h : s.prefixPending) (t : State) :
    s.betweenInstructions t = none :=
  if_pos (s.midInstruction_iff.2 h)

theorem State.betweenInstructions_of_not_pending {s : State} (h : ¬ s.prefixPending) (t : State) :
    s.betweenInstructions t = some t :=
  State.betweenInstructions_eq_some.2 ⟨h, rfl⟩

/-- R40, R453, R460: what a step does to the requests and the clock. -/
theorem step_requests_clk {s t : State} (h : step s = .next t) :
    t.resetReq = false ∧ t.nmiReq = (s.nmiReq && s.resetReq) ∧ t.intReq = s.intReq ∧
      (s.resetReq = false → s.clk + 4 ≤ t.clk) ∧ (s.resetReq = true → t.clk = 0) := by
  obtain ⟨hr, rfl⟩ | ⟨hr, -, e⟩ | ⟨hr, hn, -, e⟩ | ⟨hr, hn, -, -, rfl⟩ | ⟨hf, e⟩ := step_control_cases h
  · simp [hr, State.resetService, Config.tReset]
  · simpa [hr, e.resetReq, e.nmiReq, e.intReq] using e.clk_le
  · simpa [hr, hn, e.resetReq, e.nmiReq, e.intReq] using e.clk_le
  · simp [hr, hn]
  · simpa [hf.noReset, hf.noNmi, e.resetReq, e.nmiReq, e.intReq] using e.clk_le

/-- R5, R87, R495: an action of the host changes the requests, or while no prefix is pending what stands behind the accesses. -/
theorem State.host_frame {s t : State} {x : HostAction} (h : s.host x = some t) :
    t = { s with
      resetReq := t.resetReq, nmiReq := t.nmiReq, intReq := t.intReq, mem := t.mem, regions := t.regions,
      platform := t.platform, portAnswers := t.portAnswers } ∧
    (s.prefixPending → t = { s with resetReq := t.resetReq, nmiReq := t.nmiReq, intReq := t.intReq }) := by
  cases x with
  | driveReset on | driveNmi on | driveInt on =>
    cases h
    exact ⟨rfl, fun _ => rfl⟩
  | store _ _ | replaceMemory _ | mapMemory _ | swapPlatform _ | answerPort _ | replacePortAnswers _ =>
    obtain ⟨hp, rfl⟩ := State.betweenInstructions_eq_some.1 h
    exact ⟨rfl, fun hp' => absurd hp' hp⟩

/-- Settles O21: a step by its kind, a host action by its own; contents placed or replaced are read back at every address. -/
theorem requestsAndClock : Obligations.RequestsAndClock := by
  refine ⟨fun s t => step_requests_clk, fun s t x => State.host_frame, fun s on => ⟨rfl, rfl, rfl⟩,
    fun s a v cells regions platform vs => ⟨fun hp => ?_, fun hp => ?_⟩⟩
  · simp [State.host, State.betweenInstructions_of_pending hp]
  · have accepted := State.betweenInstructions_of_not_pending hp
    refine ⟨⟨_, accepted _, rfl, fun b => ?_⟩, ⟨_, accepted _, rfl, fun b => ?_⟩, accepted _, accepted _, accepted _,
      accepted _⟩
    · exact (Memory.read_write s.mem a.toNat b.toNat v).trans (by simp [BitVec.toNat_inj, State.content])
    · exact Memory.read_replace cells b

/-- Settles O14: the memory is empty, nothing is pending and `IFF1` is 0. -/
theorem invariantAtReset : Obligations.InvariantAtReset where
  memory := State.wf_reset
  bitTable := nofun
  unsplit := fun _ => .inr rfl
  halted := nofun
  haltByte := nofun

/-! ### The register file -/

theorem hi_eq_div (w : Word) : hi w = BitVec.ofNat 8 (w.toNat / 256) := by
  show BitVec.ofNat 8 (w.toNat >>> 8) = _
  rw [Nat.shiftRight_eq_div_pow]

theorem lo_eq_mod (w : Word) : lo w = BitVec.ofNat 8 (w.toNat % 256) := by
  apply BitVec.eq_of_toNat_eq
  simp [lo]

/-- Settles O32: halves and words as numbers, a register written and read back; every other accessor is its record update. -/
theorem halvesAndPairs : Obligations.HalvesAndPairs := fun s r r' u v w _ =>
  ⟨⟨hi_eq_div w, lo_eq_mod w, toNat_join u v, join_hi_lo w⟩, rfl, rfl, s.reg_setReg r r' v, rfl, rfl, rfl, rfl, rfl, rfl,
    rfl, rfl, rfl, rfl, rfl, rfl, rfl, rfl, rfl, rfl⟩

end Sys2Proof.Machine
end

section
/-! What the record of accesses says of plain memory: a read is answered by the latest write, and nothing else changes
it (20_memory.md R70, R71, R72, R79, R82, R85). -/

namespace Sys2Proof.Machine

/-! ### Accesses and the memory they leave -/

theorem replay_append (kind : Word → MemKind) (m : Memory) (xs ys : List BusAccess) :
    replay kind m (xs ++ ys) = (replay kind m xs).bind (replay kind · ys) := by
  induction xs generalizing m with
  | nil => rfl
  | cons x xs ih =>
    cases x with
    | memRead a v =>
      simp only [List.cons_append, replay]
      split
      · exact ih m
      · rfl
    | memWrite _ _ | portRead _ _ | portWrite _ _ => exact ih _

/-- Some accesses that `bus` records after those of `s`, replayed from the plain memory of `s`, give `m`. -/
def State.ReplaysTo (s : State) (m : Memory) (bus : List BusAccess) : Prop :=
  ∃ xs, bus = xs.reverse ++ s.bus ∧ replay s.memKind s.mem xs = some m

/-- The accesses recorded between `s` and `t` explain the plain memory of `t`. -/
def State.Explains (s t : State) : Prop := s.ReplaysTo t.mem t.bus

@[simp] theorem State.replaysTo_self (s : State) : s.ReplaysTo s.mem s.bus := ⟨[], rfl, rfl⟩

theorem State.Explains.trans {s t u : State} (h : s.Explains t) (hr : t.regions = s.regions) (h' : t.Explains u) :
    s.Explains u := by
  obtain ⟨xs, hb, hm⟩ := h
  obtain ⟨ys, hb', hm'⟩ := h'
  have hk : t.memKind = s.memKind := funext (State.memKind_eq_of_regions hr)
  refine ⟨xs ++ ys, by rw [hb', hb, List.reverse_append, List.append_assoc], ?_⟩
  rw [replay_append, hm, ← hk]
  exact hm'

section
variable {s : State} {m : Memory} {bus : List BusAccess} (h : s.ReplaysTo m bus)
include h

theorem State.ReplaysTo.access {m' : Memory} {x : BusAccess} (hx : replay s.memKind m [x] = some m') :
    s.ReplaysTo m' (x :: bus) := by
  obtain ⟨xs, hb, hm⟩ := h
  refine ⟨xs ++ [x], by simp [hb], ?_⟩
  rw [replay_append, hm]
  exact hx

/-- R71: plain memory answers with its content; anything else may answer anything. -/
@[simp] theorem State.ReplaysTo.memRead (platform : Nat) (past : List BusAccess) (a : Word) :
    s.ReplaysTo m (.memRead a (Memory.answer s.regions m platform past a) :: bus) := by
  refine h.access (if_pos ?_)
  unfold Memory.answer State.memKind
  cases memKindIn s.regions a with
  | ram | rom => exact .inr rfl
  | device => exact .inl rfl

/-- R72: only RAM takes the byte. -/
@[simp] theorem State.ReplaysTo.memWrite (a : Word) (v : Byte) :
    s.ReplaysTo (m.store s.regions a v) (.memWrite a v :: bus) := by
  refine h.access (congrArg some ?_)
  unfold Memory.store State.memKind
  cases memKindIn s.regions a <;> rfl

@[simp] theorem State.ReplaysTo.portRead (p : Word) (v : Byte) : s.ReplaysTo m (.portRead p v :: bus) := h.access rfl

@[simp] theorem State.ReplaysTo.portWrite (p : Word) (v : Byte) : s.ReplaysTo m (.portWrite p v :: bus) := h.access rfl

end

/-! ### The shared operations -/

section
variable (s : State) (op : AluOp) (g : Byte → Byte → Byte × Byte) (xy : IndexReg) (a dir : Word) (v : Byte)

@[simp] theorem State.replaysTo_accumulate : s.ReplaysTo (s.accumulate op v).mem (s.accumulate op v).bus :=
  s.replaysTo_self

@[simp] theorem State.replaysTo_accumulateAt : s.ReplaysTo (s.accumulateAt op a).mem (s.accumulateAt op a).bus :=
  s.replaysTo_self.memRead _ _ _

@[simp] theorem State.replaysTo_accumulateIndexed :
    s.ReplaysTo (s.accumulateIndexed op xy v).mem (s.accumulateIndexed op xy v).bus :=
  s.replaysTo_self.memRead _ _ _

@[simp] theorem State.replaysTo_modifyReg (r : Reg8) : s.ReplaysTo (s.modifyReg g r).mem (s.modifyReg g r).bus := by
  simp [State.modifyReg_eq]

@[simp] theorem State.replaysTo_modifyHalf (h : Half) :
    s.ReplaysTo (s.modifyHalf g xy h).mem (s.modifyHalf g xy h).bus := by
  simp [State.modifyHalf]

@[simp] theorem State.replaysTo_modifyIndexed :
    s.ReplaysTo (s.modifyIndexed g xy v).2.mem (s.modifyIndexed g xy v).2.bus :=
  (s.replaysTo_self.memRead _ _ _).memWrite _ _

@[simp] theorem State.replaysTo_digitRotate (mem acc : Byte → Byte → Byte) :
    s.ReplaysTo (s.digitRotate mem acc).mem (s.digitRotate mem acc).bus :=
  (s.replaysTo_self.memRead _ _ _).memWrite _ _

@[simp] theorem State.replaysTo_loadA : s.ReplaysTo (s.loadA a).mem (s.loadA a).bus := s.replaysTo_self.memRead _ _ _

@[simp] theorem State.replaysTo_storeA : s.ReplaysTo (s.storeA a).mem (s.storeA a).bus := s.replaysTo_self.memWrite _ _

/-- R203: both bytes on the stack are read before one is written. -/
@[simp] theorem State.replaysTo_exchangeStack : s.ReplaysTo (s.exchangeStack a).2.mem (s.exchangeStack a).2.bus :=
  (((s.replaysTo_self.memRead _ _ _).memRead _ _ _).memWrite _ _).memWrite _ _

@[simp] theorem State.replaysTo_call : s.ReplaysTo (s.call a).mem (s.call a).bus :=
  (s.replaysTo_self.memWrite _ _).memWrite _ _

@[simp] theorem State.replaysTo_ret : s.ReplaysTo s.ret.mem s.ret.bus :=
  (s.replaysTo_self.memRead _ _ _).memRead _ _ _

@[simp] theorem State.replaysTo_returnFromSignal : s.ReplaysTo s.returnFromSignal.mem s.returnFromSignal.bus :=
  (s.replaysTo_self.memRead _ _ _).memRead _ _ _

@[simp] theorem State.replaysTo_inC : s.ReplaysTo s.inC.2.mem s.inC.2.bus := s.replaysTo_self.portRead _ _

@[simp] theorem State.replaysTo_ldBlock : s.ReplaysTo (s.ldBlock dir).mem (s.ldBlock dir).bus :=
  (s.replaysTo_self.memRead _ _ _).memWrite _ _

@[simp] theorem State.replaysTo_cpBlock : s.ReplaysTo (s.cpBlock dir).2.mem (s.cpBlock dir).2.bus :=
  s.replaysTo_self.memRead _ _ _

@[simp] theorem State.replaysTo_inBlock : s.ReplaysTo (s.inBlock dir).mem (s.inBlock dir).bus :=
  (s.replaysTo_self.portRead _ _).memWrite _ _

@[simp] theorem State.replaysTo_outBlock : s.ReplaysTo (s.outBlock dir).mem (s.outBlock dir).bus :=
  (s.replaysTo_self.memRead _ _ _).portWrite _ _

end

/-! ### Handlers -/

theorem Yields.explains {s t : State} (h : s.ReplaysTo t.mem t.bus) (total fetches : Nat) :
    Yields s.Explains (t.finish total fetches) := ⟨_, rfl, h⟩

/-- A block transfer or comparison that may repeat (R206, R211). -/
theorem Yields.explains_finishRepeat {s t : State} (h : s.ReplaysTo t.mem t.bus) (again : Bool) :
    Yields s.Explains (t.finishRepeat again) :=
  .ite (.explains (by simpa using h) _ _) (.explains h _ _)

/-- What a handler records explains the plain memory it leaves: its accesses are those of the shared operations. -/
theorem exec_handler_explains {i : Instr} (h : i.handler = i) (s : State) : Yields s.Explains (exec i s) := by
  cases i with
  | xyStandard _ _ | indexedBit _ _ => nomatch h
  | prefixCb | prefixDd | prefixEd | prefixFd | xyPrefixDd _ | xyPrefixFd _ | xyPrefixEd _ =>
    exact ⟨_, rfl, s.replaysTo_self⟩
  | callNn nn => exact .explains ((s.setWz nn).replaysTo_call nn) _ _
  | callCcNn _ nn => exact .ite (.explains ((s.setWz nn).replaysTo_call nn) _ _) (.explains (by simp) _ _)
  | ldir => exact .explains_finishRepeat (s.replaysTo_ldBlock forwards) _
  | lddr => exact .explains_finishRepeat (s.replaysTo_ldBlock backwards) _
  | cpir => exact .explains_finishRepeat (s.replaysTo_cpBlock forwards) _
  | cpdr => exact .explains_finishRepeat (s.replaysTo_cpBlock backwards) _
  | exIndSpHl =>
    refine .explains ?_ _ _
    exact s.replaysTo_exchangeStack s.hl
  | exIndSpXy xy =>
    refine .explains ?_ _ _
    cases xy with
    | ix => exact s.replaysTo_exchangeStack s.ix
    | iy => exact s.replaysTo_exchangeStack s.iy
  | djnz _ | jrCc _ _ | retCc _ | jpCcNn _ _ | inir | indr | otir | otdr =>
    exact .ite (.explains (by simp) _ _) (.explains (by simp) _ _)
  | _ => exact .explains (by simp [State.peek]) _ _

/-! ### Steps -/

theorem State.explains_fetchOperands (k : Nat) (s : State) : s.Explains (State.fetchOperands k s) := by
  induction k generalizing s with
  | zero => exact s.replaysTo_self
  | succ k ih =>
    have fetched : s.Explains s.fetch8.2 := s.replaysTo_self.memRead _ _ _
    exact fetched.trans rfl (ih s.fetch8.2)

theorem State.explains_afterFetch (s : State) (i : Instr) : s.Explains (s.afterFetch i) := by
  have fetched : s.Explains s.fetchOp.2 := s.replaysTo_self.memRead _ _ _
  exact fetched.trans rfl (State.explains_fetchOperands _ _)

theorem State.afterFetch_regions (s : State) (i : Instr) : (s.afterFetch i).regions = s.regions := by
  rw [State.afterFetch_eq]

theorem State.fetchStep_explains (s : State) : Yields s.Explains s.fetchStep := by
  obtain ⟨hh, he⟩ := exec_handler s.nextInstr_slotOf.wf
  obtain ⟨t, ht, h⟩ := exec_handler_explains hh (s.afterFetch s.nextInstr)
  exact ⟨t, (he _).trans ht, (s.explains_afterFetch _).trans (s.afterFetch_regions _) h⟩

theorem State.explains_enterSignal (s : State) (iff2 : Bool) : s.Explains (s.enterSignal iff2) := by
  rw [State.enterSignal_eq]
  exact (s.replaysTo_self.memWrite _ _).memWrite _ _

theorem State.explains_intMode2 (s : State) : s.Explains s.intMode2 :=
  (s.replaysTo_self.memRead _ _ _).memRead _ _ _

theorem State.explains_intService (s : State) : s.Explains s.intService := by
  have entered := s.explains_enterSignal false
  unfold State.intService
  dsimp only
  split
  · exact entered.trans (by rw [State.enterSignal_eq]; rfl) (State.explains_intMode2 _)
  · exact entered
  · exact entered

theorem step_explains {s t : State} (h : step s = .next t) : s.Explains t := by
  obtain ⟨-, e⟩ | ⟨-, -, e⟩ | ⟨-, -, -, e⟩ | ⟨-, -, -, -, e⟩ | ⟨-, e⟩ := step_cases h
  · cases e
    exact s.replaysTo_self
  · cases e
    exact State.explains_enterSignal { s with intBlocked := false } s.iff2
  · cases e
    exact State.explains_intService { s with intBlocked := false }
  · cases e
    exact s.replaysTo_self
  · exact (State.fetchStep_explains { s with intBlocked := false }).of_eq e.symm

/-! ### The memory map -/

@[simp] theorem State.controlEffect_regions (s : State) (i : Instr) : (s.controlEffect i).regions = s.regions := by
  unfold State.controlEffect
  split <;> rfl

@[simp] theorem State.controlEffect_platform (s : State) (i : Instr) : (s.controlEffect i).platform = s.platform := by
  unfold State.controlEffect
  split <;> rfl

/-- R70: a step leaves what stands behind the accesses as it is. -/
theorem step_keeps_map {s t : State} (h : step s = .next t) : t.regions = s.regions ∧ t.platform = s.platform := by
  obtain ⟨-, rfl⟩ | ⟨-, -, e⟩ | ⟨-, -, -, e⟩ | ⟨-, -, -, -, rfl⟩ | ⟨-, e⟩ := step_control_cases h
  · exact ⟨rfl, rfl⟩
  · exact ⟨e.regions, e.platform⟩
  · exact ⟨e.regions, e.platform⟩
  · exact ⟨rfl, rfl⟩
  · exact ⟨e.regions.trans (State.controlEffect_regions _ _), e.platform.trans (State.controlEffect_platform _ _)⟩

theorem State.memRead_of_plain {s : State} {a : Word} (h : s.memKind a ≠ .device) :
    s.memRead a = (s.content a, s.record (.memRead a (s.content a))) := by
  rw [State.memRead, State.peek_of_plain h]

theorem State.memRead_of_device {s : State} {a : Word} (h : s.memKind a = .device) :
    s.memRead a = (Config.freeMemByte s.platform s.bus a,
      s.record (.memRead a (Config.freeMemByte s.platform s.bus a))) := by
  rw [State.memRead, State.peek_of_device h]

/-- Settles O22: each of the four accesses replays to the memory it leaves, and a step is made of them. -/
theorem accessesExplainMemory : Obligations.AccessesExplainMemory := by
  refine ⟨fun s t h => ?_, fun s a b v => ⟨State.memRead_of_plain, State.memRead_of_device, rfl, ?_⟩⟩
  · obtain ⟨hr, hp⟩ := step_keeps_map h
    exact ⟨hr, hp, step_explains h⟩
  · exact (s.content_memWrite a b v).trans (if_congr (and_congr_right fun e => by rw [e]) rfl rfl)

end Sys2Proof.Machine
end

section
/-! Single transfers to and from ports (20_memory.md R73 to R75; 49_io.md R410 to R415). -/

namespace Sys2Proof.Machine

/-! ### Flags of a byte (R29) -/

/-- An even count is a chain of exclusive ors. -/
theorem even_countP (p : Nat → Bool) (l : List Nat) :
    decide (l.countP p % 2 = 0) = l.foldr (fun i even => p i ^^ even) true := by
  induction l with
  | nil => rfl
  | cons a l ih =>
    rw [List.foldr_cons, ← ih, List.countP_cons]
    cases p a with
    | false => simp
    | true =>
      obtain h | h := Nat.mod_two_eq_zero_or_one (l.countP p) <;> simp [Nat.succ_mod_two_eq_zero_iff, h]

theorem parity8_eq_evenParity (v : Byte) : parity8 v = evenParity v := by
  rw [evenParity, even_countP]
  simp [parity8, List.range_succ]

theorem byteFlags_eq (v f : Byte) :
    byteFlags v f = resultFlags v false (evenParity v) false (f.getLsbD 0) := by
  rw [byteFlags, sz53p, sz53, resultFlags, flagByte, parity8_eq_evenParity]
  apply byte_ext <;> simp

/-- Settles O57: an answer read sets its flags; the rest of each transfer is its record update. -/
theorem singleInputAndOutput : Obligations.SingleInputAndOutput := by
  refine fun s r n v vs q => ⟨rfl, rfl, rfl, ⟨?_, ?_⟩, rfl, rfl, rfl⟩
  · rw [← byteFlags_eq]
    cases r <;> rfl
  · rw [← byteFlags_eq]
    rfl

end Sys2Proof.Machine
end

section
/-! Decoding what the encoder gives: every operand at every value, in each table (30_encoding.md R100 to R109, R119 to
R125). -/

namespace Sys2Proof

/-! ### Fields and bytes -/

/-- A field of three bits, value by value (R109). -/
theorem field3_cases {motive : BitVec 3 → Prop} (h0 : motive 0) (h1 : motive 1) (h2 : motive 2) (h3 : motive 3)
    (h4 : motive 4) (h5 : motive 5) (h6 : motive 6) (h7 : motive 7) (b : BitVec 3) : motive b := by
  have hb : b = 0 ∨ b = 1 ∨ b = 2 ∨ b = 3 ∨ b = 4 ∨ b = 5 ∨ b = 6 ∨ b = 7 := by bv_omega
  obtain rfl | rfl | rfl | rfl | rfl | rfl | rfl | rfl := hb <;> assumption

/-- What decoding an instruction means: it is the slot that the bytes select, and none of its bytes is missing. -/
theorem decode_eq_instr {t : Table} {bs : List Byte} {i : Instr} {rest : List Byte} :
    decode t bs = .instr i rest ↔ ∃ op ops, bs = op :: ops ∧ decodeSlot t op (ops.getD 0 0) (ops.getD 1 0) = i ∧
      i.operandBytes ≤ ops.length ∧ ops.drop i.operandBytes = rest := by
  cases bs with
  | nil => simp [decode]
  | cons op ops =>
    simp only [decode, List.cons.injEq]
    constructor
    · intro h
      split at h
      · nomatch h
      · next hn =>
        cases h
        exact ⟨op, ops, ⟨rfl, rfl⟩, rfl, Nat.le_of_not_lt hn, rfl⟩
    · rintro ⟨_, _, ⟨rfl, rfl⟩, rfl, hn, rfl⟩
      rw [if_neg (Nat.not_lt.2 hn)]

section
variable {t : Table} {i : Instr} {op : Byte} (rest : List Byte)

/-- A slot without operand bytes. -/
theorem decode_slot0 (h : ∀ a b, decodeSlot t op a b = i) (hn : i.operandBytes = 0) :
    decode t ([op] ++ rest) = .instr i rest := by
  simp [decode, h, hn]

/-- A slot with one operand byte. -/
theorem decode_slot1 {a : Byte} (h : ∀ b, decodeSlot t op a b = i) (hn : i.operandBytes = 1) :
    decode t ([op, a] ++ rest) = .instr i rest := by
  simp [decode, h, hn]

/-- A slot with two operand bytes. -/
theorem decode_slot2 {a b : Byte} (h : decodeSlot t op a b = i) (hn : i.operandBytes = 2) :
    decode t ([op, a, b] ++ rest) = .instr i rest := by
  simp [decode, h, hn]

/-- A slot with a 16-bit operand, low byte first (R102). -/
theorem decode_slot16 {f : Word → Instr} (h : ∀ a b, decodeSlot t op a b = f (immediate16 a b))
    (hn : ∀ v, (f v).operandBytes = 2) (nn : Word) :
    decode t (op :: operandBytes16 nn ++ rest) = .instr (f nn) rest :=
  decode_slot2 rest ((h _ _).trans (congrArg f (join_hi_lo nn))) (hn nn)

end

theorem decodeStandard_ldRR (y z : Reg8) (a b : Byte) :
    decodeStandard (withZ (withY 0x40 y.code) z.code) a b = .ldRR y z := by
  cases y <;> cases z <;> rfl

/-- The no-ops of the extended table keep their opcode byte (R121, R276). -/
theorem decodeExtended_of_isExtendedNop {op : Byte} (h : isExtendedNop op = true) (a b : Byte) :
    decodeExtended op a b = .edNop op := by
  unfold decodeExtended
  obtain ⟨hx1, hx2⟩ | ⟨hx, hz, hy⟩ | ⟨hx, hyz⟩ := (isExtendedNop_iff op).1 h
  · split
    · contradiction
    · contradiction
    · rfl
  · simp only [hx, decodeExtended1, hz]
    split
    case h_7 => rfl
    all_goals omega
  · simp only [hx, decodeExtended2]
    split
    case h_17 => rfl
    all_goals omega

/-- A slot of the indexed-bit table is its displacement and its opcode byte (R115). -/
theorem operandBytes_of_table_indexedBit {i : Instr} {xy : IndexReg} (h : i.table = .indexedBit xy) :
    i.operandBytes = 1 := by
  cases i with
  | rlcIndXy _ _ | rlcIndXyR _ _ _ | rrcIndXy _ _ | rrcIndXyR _ _ _ | rlIndXy _ _ | rlIndXyR _ _ _ | rrIndXy _ _
  | rrIndXyR _ _ _ | slaIndXy _ _ | slaIndXyR _ _ _ | sraIndXy _ _ | sraIndXyR _ _ _ | sllIndXy _ _ | sllIndXyR _ _ _
  | srlIndXy _ _ | srlIndXyR _ _ _ | bitIndXy _ _ _ _ | resIndXy _ _ _ | resIndXyR _ _ _ _ | setIndXy _ _ _
  | setIndXyR _ _ _ _ => rfl
  | _ => nomatch h

/-- R114 items 4 and 5: a standard instruction that names no `HL`, `H`, `L` or `(HL)` is handed over. -/
theorem indexedForm_of_not_replacedByIndex {i : Instr} (h : i.replacedByIndex = false) (xy : IndexReg) (a b : Byte) :
    indexedForm xy a b i = .xyStandard xy i := by
  cases i with
  | ldDdNn dd _ | incSs dd | decSs dd => cases dd with
    | hl => nomatch h
    | _ => rfl
  | popQq qq | pushQq qq => cases qq with
    | hl => nomatch h
    | _ => rfl
  | incR r | decR r | ldRN r _ | addR r | adcR r | subR r | sbcR r | andR r | xorR r | orR r | cpR r => cases r with
    | h | l => nomatch h
    | _ => rfl
  | ldRR y z => exact if_neg (Bool.eq_false_iff.1 h)
  | addHlSs _ | ldIndNnHl _ | ldHlIndNn _ | incIndHl | decIndHl | ldIndHlN _ | ldIndHlR _ | ldRIndHl _ | addIndHl
  | adcIndHl | subIndHl | sbcIndHl | andIndHl | xorIndHl | orIndHl | cpIndHl | exIndSpHl | jpIndHl | ldSpHl | prefixCb
  | prefixDd | prefixEd | prefixFd => nomatch h
  | _ => rfl

/-! ### Handing over (R114 item 5, R115) -/

theorem decode_xyStandard {xy : IndexReg} {i : Instr} {bs rest : List Byte} (h : (Instr.xyStandard xy i).wf = true)
    (hd : decode i.table bs = .instr i rest) : decode (.indexed xy) bs = .instr (.xyStandard xy i) rest := by
  obtain ⟨ht, hr, -⟩ := Instr.wf_xyStandard.1 h
  rw [ht] at hd
  obtain ⟨op, ops, hb, hi, hn⟩ := decode_eq_instr.1 hd
  exact decode_eq_instr.2 ⟨op, ops, hb, (congrArg _ hi).trans (indexedForm_of_not_replacedByIndex hr xy _ _), hn⟩

theorem decode_indexedBit {xy : IndexReg} {i : Instr} {rest : List Byte} (h : (Instr.indexedBit xy i).wf = true)
    (hd : decode i.table (encodeSlot i ++ rest) = .instr i rest) :
    decode (.indexed xy) (0xCB :: encodeSlot i ++ rest) = .instr (.indexedBit xy i) rest := by
  obtain ⟨ht, hw⟩ := Instr.wf_indexedBit.1 h
  have hlen : (encodeSlot i).length = 2 :=
    (Laws.EncodedLength.of_handler i hw).trans (congrArg (· + 1) (operandBytes_of_table_indexedBit ht))
  obtain ⟨d, op, he⟩ := List.length_eq_two.1 hlen
  rw [he, ht] at hd
  rw [he]
  obtain ⟨_, _, hb, hi, -⟩ := decode_eq_instr.1 hd
  cases hb
  exact decode_slot2 rest (congrArg (Instr.indexedBit xy) hi) rfl

/-! ### Every row -/

/-- Row by row: each value of a code gives one opcode byte, which the decoder takes apart again. -/
theorem decode_encodeSlot {i : Instr} (h : i.wf = true) (rest : List Byte) :
    decode i.table (encodeSlot i ++ rest) = .instr i rest := by
  induction i with
  -- no operand byte and no field
  | nop | exAfAf | ldIndBcA | ldIndDeA | ldAIndBc | ldAIndDe | incIndHl | decIndHl | rlca | rrca | rla | rra | daa | cpl
  | scf | ccf | halt | addIndHl | adcIndHl | subIndHl | sbcIndHl | andIndHl | xorIndHl | orIndHl | cpIndHl | ret | exx
  | jpIndHl | ldSpHl | prefixCb | exIndSpHl | exDeHl | di | ei | prefixDd | prefixEd | prefixFd | rlcIndHl | rrcIndHl
  | rlIndHl | rrIndHl | slaIndHl | sraIndHl | sllIndHl | srlIndHl | inIndC | outIndC0 | reti | ldIA | ldRA | ldAI | ldAR
  | rrd | rld | ldi | cpi | ini | outi | ldd | cpd | ind | outd | ldir | cpir | inir | otir | lddr | cpdr | indr | otdr
  | incXy _ | decXy _ | popXy _ | pushXy _ | exIndSpXy _ | jpIndXy _ | ldSpXy _ | xyPrefixDd _ | xyPrefixFd _
  | xyPrefixEd _ => exact decode_slot0 rest (fun _ _ => rfl) rfl
  -- one operand byte
  | djnz _ | jr _ | ldIndHlN _ | outIndNA _ | inAIndN _ | addN _ | adcN _ | subN _ | sbcN _ | andN _ | xorN _ | orN _
  | cpN _ | incIndXy _ _ | decIndXy _ _ | addIndXy _ _ | adcIndXy _ _ | subIndXy _ _ | sbcIndXy _ _ | andIndXy _ _
  | xorIndXy _ _ | orIndXy _ _ | cpIndXy _ _ | rlcIndXy _ _ | rrcIndXy _ _ | rlIndXy _ _ | rrIndXy _ _ | slaIndXy _ _
  | sraIndXy _ _ | sllIndXy _ _ | srlIndXy _ _ => exact decode_slot1 rest (fun _ => rfl) rfl
  -- two operand bytes
  | ldIndXyN _ _ _ => exact decode_slot2 rest rfl rfl
  | ldIndNnHl nn | ldIndNnA nn | ldHlIndNn nn | ldAIndNn nn | jpNn nn | callNn nn | ldXyNn _ nn | ldIndNnXy _ nn
  | ldXyIndNn _ nn => exact decode_slot16 rest (fun _ _ => rfl) (fun _ => rfl) nn
  | ldDdNn dd nn | ldIndNnDd dd nn | ldDdIndNn dd nn =>
    cases dd <;> exact decode_slot16 rest (fun _ _ => rfl) (fun _ => rfl) nn
  | jpCcNn cc nn | callCcNn cc nn => cases cc <;> exact decode_slot16 rest (fun _ _ => rfl) (fun _ => rfl) nn
  -- a code of a register, a pair or a condition
  | addHlSs dd | incSs dd | decSs dd | sbcHlSs dd | adcHlSs dd =>
    cases dd <;> exact decode_slot0 rest (fun _ _ => rfl) rfl
  | popQq qq | pushQq qq => cases qq <;> exact decode_slot0 rest (fun _ _ => rfl) rfl
  | addXyPp _ pp => cases pp <;> exact decode_slot0 rest (fun _ _ => rfl) rfl
  | retCc cc => cases cc <;> exact decode_slot0 rest (fun _ _ => rfl) rfl
  | incR r | decR r | ldIndHlR r | ldRIndHl r | addR r | adcR r | subR r | sbcR r | andR r | xorR r | orR r | cpR r
  | rlcR r | rrcR r | rlR r | rrR r | slaR r | sraR r | sllR r | srlR r | inRIndC r | outIndCR r =>
    cases r <;> exact decode_slot0 rest (fun _ _ => rfl) rfl
  | ldRN r _ | ldRIndXy _ r _ | ldIndXyR _ _ r | rlcIndXyR _ _ r | rrcIndXyR _ _ r | rlIndXyR _ _ r | rrIndXyR _ _ r
  | slaIndXyR _ _ r | sraIndXyR _ _ r | sllIndXyR _ _ r | srlIndXyR _ _ r =>
    cases r <;> exact decode_slot1 rest (fun _ => rfl) rfl
  | incXyHalf _ half | decXyHalf _ half | addXyHalf _ half | adcXyHalf _ half | subXyHalf _ half | sbcXyHalf _ half
  | andXyHalf _ half | xorXyHalf _ half | orXyHalf _ half | cpXyHalf _ half =>
    cases half <;> exact decode_slot0 rest (fun _ _ => rfl) rfl
  | ldXyHalfN _ half _ => cases half <;> exact decode_slot1 rest (fun _ => rfl) rfl
  | jrCc cc _ =>
    cases cc with
    | nz | z | nc | c => exact decode_slot1 rest (fun _ => rfl) rfl
    | po | pe | p | m => nomatch h
  -- a field of three bits or of one
  | rst b | bitIndHl b | resIndHl b | setIndHl b | neg b =>
    induction b using field3_cases <;> exact decode_slot0 rest (fun _ _ => rfl) rfl
  | resIndXy _ b _ | setIndXy _ b _ => induction b using field3_cases <;> exact decode_slot1 rest (fun _ => rfl) rfl
  | bitR b r | resR b r | setR b r =>
    induction b using field3_cases <;> cases r <;> exact decode_slot0 rest (fun _ _ => rfl) rfl
  | resIndXyR _ b _ r | setIndXyR _ b _ r =>
    induction b using field3_cases <;> cases r <;> exact decode_slot1 rest (fun _ => rfl) rfl
  | bitIndXy _ b _ z =>
    induction b using field3_cases <;> induction z using field3_cases <;> exact decode_slot1 rest (fun _ => rfl) rfl
  | retn y =>
    induction y using field3_cases with
    | h1 => nomatch h
    | _ => exact decode_slot0 rest (fun _ _ => rfl) rfl
  | im0 u v => cases u <;> cases v <;> exact decode_slot0 rest (fun _ _ => rfl) rfl
  | im1 u | im2 u => cases u <;> exact decode_slot0 rest (fun _ _ => rfl) rfl
  -- the rows with a check on their fields
  | edNop op => exact decode_slot0 rest (decodeExtended_of_isExtendedNop h) rfl
  | ldRR y z => exact decode_slot0 rest (decodeStandard_ldRR y z) rfl
  | ldRRXy xy y z =>
    have hs (a b) := congrArg (indexedForm xy a b) (decodeStandard_ldRR y z a b)
    exact decode_slot0 rest (fun a b => (hs a b).trans (if_pos h)) rfl
  -- the slots that hand over
  | xyStandard xy i ih => exact decode_xyStandard h (ih (Instr.wf_xyStandard.1 h).2.2)
  | indexedBit xy i ih => exact decode_indexedBit h (ih (Instr.wf_indexedBit.1 h).2)

/-- Settles O23: the bytes of each row select its slot; one that hands over decodes as the instruction it holds. -/
theorem decodeOfEncode : Obligations.DecodeOfEncode := fun _ rest h => decode_encodeSlot h rest

end Sys2Proof
end

section
/-! Encoding what decoding gives: the bytes the slot was read from (30_encoding.md R100, R103, R123). -/

namespace Sys2Proof

/-! ### Opcode bytes and their fields (R101) -/

/-- The opcode byte with these fields. -/
def opcode (x y z : Nat) : Byte := BitVec.ofNat 8 (64 * x + 8 * y + z)

theorem fieldX_lt (op : Byte) : fieldX op < 4 := Nat.div_lt_of_lt_mul op.isLt

/-- A byte is determined by its three fields. -/
theorem opcode_fields (op : Byte) : opcode (fieldX op) (fieldY op) (fieldZ op) = op := by
  unfold opcode fieldX fieldY fieldZ
  rw [show 64 * (op.toNat / 64) + 8 * (op.toNat / 8 % 8) + op.toNat % 8 = op.toNat by omega]
  exact BitVec.ofNat_toNat 8 op

/-- Every byte is the opcode byte of some fields. -/
theorem exists_fields (op : Byte) : ∃ x y z, x < 4 ∧ y < 8 ∧ z < 8 ∧ op = opcode x y z :=
  ⟨_, _, _, fieldX_lt op, fieldY_lt op, fieldZ_lt op, (opcode_fields op).symm⟩

/-! ### The tables, slot by slot

In a quarter `x` of a table the fields `y` and `z` pick one of 64 slots. At a given slot the decoder and the encoder
both compute, whatever the operand bytes; only a 16-bit operand takes a lemma. -/

/-- The encoding of `i` is the opcode byte `op` and as many of the bytes `a`, `b` as `i` has operand bytes. -/
abbrev Instr.EncodesTo (i : Instr) (op a b : Byte) : Prop := encodeSlot i = [op, a, b].take (i.operandBytes + 1)

/-- An instruction with a 16-bit operand (R102). -/
theorem Instr.EncodesTo.word {i : Instr} {op a b : Byte} (h : encodeSlot i = op :: operandBytes16 (immediate16 a b))
    (hn : i.operandBytes = 2) : i.EncodesTo op a b := by
  rw [Instr.EncodesTo, h, hn, operandBytes16, immediate16, lo_join, hi_join]
  rfl

theorem decodeStandard0_encodesTo {y z : Nat} {op : Byte} (hy : y < 8) (hz : z < 8) (hop : opcode 0 y z = op)
    (a b : Byte) : (decodeStandard0 y z a b).EncodesTo op a b := by
  subst hop
  match z, hz with
  | 1, _ =>
    match y, hy with
    | 0, _ | 2, _ | 4, _ | 6, _ => exact .word rfl rfl
    | 1, _ | 3, _ | 5, _ | 7, _ => rfl
  | 2, _ =>
    match y, hy with
    | 4, _ | 5, _ | 6, _ | 7, _ => exact .word rfl rfl
    | 0, _ | 1, _ | 2, _ | 3, _ => rfl
  | 0, _ | 3, _ | 4, _ | 5, _ | 6, _ | 7, _ => interval_cases y <;> rfl

theorem decodeStandard1_encodesTo {y z : Nat} {op : Byte} (hy : y < 8) (hz : z < 8) (hop : opcode 1 y z = op)
    (a b : Byte) : (decodeStandard1 y z).EncodesTo op a b := by
  subst hop
  interval_cases z <;> interval_cases y <;> rfl

theorem decodeStandard2_encodesTo {y z : Nat} {op : Byte} (hy : y < 8) (hz : z < 8) (hop : opcode 2 y z = op)
    (a b : Byte) : (decodeStandard2 y z).EncodesTo op a b := by
  subst hop
  interval_cases z <;> interval_cases y <;> rfl

theorem decodeStandard3_encodesTo {y z : Nat} {op : Byte} (hy : y < 8) (hz : z < 8) (hop : opcode 3 y z = op)
    (a b : Byte) : (decodeStandard3 y z a b).EncodesTo op a b := by
  subst hop
  match z, hz with
  | 2, _ | 4, _ => interval_cases y <;> exact .word rfl rfl
  | 3, _ =>
    match y, hy with
    | 0, _ => exact .word rfl rfl
    | 1, _ | 2, _ | 3, _ | 4, _ | 5, _ | 6, _ | 7, _ => rfl
  | 5, _ =>
    match y, hy with
    | 1, _ => exact .word rfl rfl
    | 0, _ | 2, _ | 3, _ | 4, _ | 5, _ | 6, _ | 7, _ => rfl
  | 0, _ | 1, _ | 6, _ | 7, _ => interval_cases y <;> rfl

theorem decodeStandard_encodesTo (op a b : Byte) : (decodeStandard op a b).EncodesTo op a b := by
  have hx := fieldX_lt op
  have hy := fieldY_lt op
  have hz := fieldZ_lt op
  have hop := opcode_fields op
  unfold decodeStandard
  split
  case h_1 h0 => exact decodeStandard0_encodesTo hy hz (h0 ▸ hop) a b
  case h_2 h1 => exact decodeStandard1_encodesTo hy hz (h1 ▸ hop) a b
  case h_3 h2 => exact decodeStandard2_encodesTo hy hz (h2 ▸ hop) a b
  case h_4 h0 h1 h2 =>
    have hne : fieldX op ≠ 0 ∧ fieldX op ≠ 1 ∧ fieldX op ≠ 2 := ⟨h0, h1, h2⟩
    have h3 : fieldX op = 3 := by omega
    exact decodeStandard3_encodesTo hy hz (h3 ▸ hop) a b

theorem decodeBit_encodesTo (op a b : Byte) : (decodeBit op).EncodesTo op a b := by
  obtain ⟨x, y, z, hx, hy, hz, rfl⟩ := exists_fields op
  interval_cases x <;> interval_cases y <;> interval_cases z <;> rfl

theorem encodeSlot_decodeIndexedBit (xy : IndexReg) (d op : Byte) :
    encodeSlot (decodeIndexedBit xy d op) = [d, op] := by
  obtain ⟨x, y, z, hx, hy, hz, rfl⟩ := exists_fields op
  interval_cases x <;> interval_cases y <;> interval_cases z <;> rfl

theorem decodeExtended_encodesTo (op a b : Byte) : (decodeExtended op a b).EncodesTo op a b := by
  obtain ⟨x, y, z, hx, hy, hz, rfl⟩ := exists_fields op
  match x, hx with
  | 1, _ =>
    match z, hz with
    | 3, _ => interval_cases y <;> exact .word rfl rfl
    | 0, _ | 1, _ | 2, _ | 4, _ | 5, _ | 6, _ | 7, _ => interval_cases y <;> rfl
  | 0, _ | 2, _ | 3, _ => interval_cases y <;> interval_cases z <;> rfl

theorem indexedForm_encodesTo {i : Instr} {op a b : Byte} (h : i.EncodesTo op a b) (xy : IndexReg) :
    (indexedForm xy a b i).EncodesTo op a b := by
  cases i with
  | ldDdNn dd _ | incSs dd | decSs dd | addHlSs dd => cases dd <;> exact h
  | popQq qq | pushQq qq => cases qq <;> exact h
  | incR r | decR r | ldRN r _ | addR r | adcR r | subR r | sbcR r | andR r | xorR r | orR r | cpR r =>
    cases r <;> exact h
  | ldRR y z =>
    show Instr.EncodesTo (if y.isHalf || z.isHalf then .ldRRXy xy y z else .xyStandard xy (.ldRR y z)) op a b
    split <;> exact h
  | incIndHl | decIndHl | ldIndHlR _ | ldRIndHl _ | addIndHl | adcIndHl | subIndHl | sbcIndHl | andIndHl | xorIndHl
  | orIndHl | cpIndHl => exact congrArg (· :: [a]) (List.cons.inj h).1
  | ldIndHlN _ => exact congrArg (· :: [a, b]) (List.cons.inj h).1
  | prefixCb => exact congrArg₂ List.cons (List.cons.inj h).1 (encodeSlot_decodeIndexedBit xy a b)
  | _ => exact h

theorem decodeSlot_encodesTo (t : Table) (op a b : Byte) : (decodeSlot t op a b).EncodesTo op a b := by
  cases t with
  | standard => exact decodeStandard_encodesTo op a b
  | bit => exact decodeBit_encodesTo op a b
  | extended => exact decodeExtended_encodesTo op a b
  | indexed xy => exact indexedForm_encodesTo (decodeStandard_encodesTo op a b) xy
  | indexedBit xy =>
    have hn := operandBytes_of_table_indexedBit (decodeIndexedBit_slotOf xy op a).table
    show encodeSlot (decodeIndexedBit xy op a) = [op, a, b].take ((decodeIndexedBit xy op a).operandBytes + 1)
    rw [hn]
    exact encodeSlot_decodeIndexedBit xy op a

/-- Settles O24: in every quarter of every table each slot is written with the opcode byte it stands at. -/
theorem encodeOfDecode : Obligations.EncodeOfDecode := fun t op a b =>
  ⟨(decodeSlot_slotOf t op a b).wf, (decodeSlot_slotOf t op a b).table, decodeSlot_encodesTo t op a b⟩

/-! ### Lengths (R103) -/

/-- How many bytes an index prefix adds to an instruction: a displacement, or `d` and the opcode (R114, R115). -/
def Instr.addedByIndex : Instr → Nat
  | .incIndHl | .decIndHl | .ldIndHlN _ | .ldIndHlR _ | .ldRIndHl _ | .addIndHl | .adcIndHl | .subIndHl | .sbcIndHl
  | .andIndHl | .xorIndHl | .orIndHl | .cpIndHl => 1
  | .prefixCb => 2
  | _ => 0

theorem operandBytes_indexedForm (xy : IndexReg) (a b : Byte) (i : Instr) :
    (indexedForm xy a b i).operandBytes = i.operandBytes + i.addedByIndex := by
  cases i with
  | ldDdNn dd _ | incSs dd | decSs dd | addHlSs dd => cases dd <;> rfl
  | popQq qq | pushQq qq => cases qq <;> rfl
  | incR r | decR r | ldRN r _ | addR r | adcR r | subR r | sbcR r | andR r | xorR r | orR r | cpR r => cases r <;> rfl
  | ldRR y z =>
    show Instr.operandBytes (if y.isHalf || z.isHalf then .ldRRXy xy y z else .xyStandard xy (.ldRR y z)) = 0
    split <;> rfl
  | _ => rfl

/-- Two instructions of the standard table are as long as each other, with and without an index prefix. -/
abbrev Instr.SameLength (i j : Instr) : Prop := i.operandBytes = j.operandBytes ∧ i.addedByIndex = j.addedByIndex

theorem decodeStandard_sameLength (op a b a' b' : Byte) :
    (decodeStandard op a b).SameLength (decodeStandard op a' b') := by
  unfold decodeStandard
  split
  · unfold decodeStandard0
    dsimp only
    repeat' split
    all_goals exact ⟨rfl, rfl⟩
  · exact ⟨rfl, rfl⟩
  · exact ⟨rfl, rfl⟩
  · unfold decodeStandard3 decodeAluN
    dsimp only
    repeat' split
    all_goals exact ⟨rfl, rfl⟩

theorem operandBytes_decodeExtended (op a b a' b' : Byte) :
    (decodeExtended op a b).operandBytes = (decodeExtended op a' b').operandBytes := by
  unfold decodeExtended decodeExtended1
  dsimp only
  repeat' split
  all_goals rfl

/-- R103: how long the instruction of a slot is follows from its opcode byte. -/
theorem operandBytes_decodeSlot (t : Table) (op a b a' b' : Byte) :
    (decodeSlot t op a b).operandBytes = (decodeSlot t op a' b').operandBytes := by
  cases t with
  | standard => exact (decodeStandard_sameLength op a b a' b').1
  | bit => rfl
  | extended => exact operandBytes_decodeExtended op a b a' b'
  | indexed xy =>
    obtain ⟨hn, ha⟩ := decodeStandard_sameLength op a b a' b'
    show (indexedForm xy a b _).operandBytes = (indexedForm xy a' b' _).operandBytes
    rw [operandBytes_indexedForm, operandBytes_indexedForm, hn, ha]
  | indexedBit xy =>
    exact (operandBytes_of_table_indexedBit (decodeIndexedBit_slotOf xy op a).table).trans
      (operandBytes_of_table_indexedBit (decodeIndexedBit_slotOf xy op a').table).symm

/-- Settles O26: each word by running the decoder, the lengths slot by slot. -/
theorem workedEncodings : Obligations.WorkedEncodings :=
  ⟨by decide, by decide, by decide, by decide, by decide, by decide, by decide, by decide, by decide,
    operandBytes_decodeSlot⟩

/-- R103: a slot looks at no byte beyond its own operand bytes. -/
theorem decodeSlot_congr {t : Table} {op a b a' b' : Byte}
    (h : [a, b].take (decodeSlot t op a b).operandBytes = [a', b'].take (decodeSlot t op a b).operandBytes) :
    decodeSlot t op a' b' = decodeSlot t op a b := by
  obtain ⟨hw, ht⟩ := decodeSlot_slotOf t op a b
  have hbytes := decodeSlot_encodesTo t op a b
  generalize decodeSlot t op a b = i at *
  have hd := decode_encodeSlot hw ([a', b'].drop i.operandBytes)
  rw [hbytes, List.take_succ_cons, h, List.cons_append, List.take_append_drop, ht] at hd
  obtain ⟨_, _, hcons, hi, -⟩ := decode_eq_instr.1 hd
  cases hcons
  exact hi

/-! ### Whole byte strings (R117, R126) -/

/-- The prefix bytes of the standard and the indexed table (R112, R113); `CB` is one in the standard table only. -/
theorem isPrefix_decodeSlot {index : Option IndexReg} {op : Byte}
    (h : op = 0xDD ∨ op = 0xFD ∨ op = 0xED ∨ op = 0xCB ∧ index = none) (a b : Byte) :
    (decodeSlot (tableOfIndex index) op a b).isPrefix = true := by
  obtain rfl | rfl | rfl | ⟨rfl, rfl⟩ := h
  · cases index <;> rfl
  · cases index <;> rfl
  · cases index <;> rfl
  · rfl

/-- No byte of an instruction that is no prefix byte is taken for one. -/
theorem tableSlot_encodeSlot {i : Instr} {index : Option IndexReg} (h : i.wf = true) (hp : i.isPrefix = false)
    (ht : i.table = tableOfIndex index) (rest : List Byte) :
    tableSlot index (encodeSlot i ++ rest) = (tableOfIndex index, encodeSlot i ++ rest) := by
  obtain ⟨op, ops, he, hi, -⟩ := decode_eq_instr.1 (decode_encodeSlot h rest)
  have hop : ¬ (op = 0xDD ∨ op = 0xFD ∨ op = 0xED ∨ op = 0xCB ∧ index = none) := by
    intro hop
    rw [← hi, ht, isPrefix_decodeSlot hop] at hp
    nomatch hp
  obtain ⟨hdd, hfd, hed, hcb⟩ := by simpa only [not_or] using hop
  rw [he, tableSlot, if_neg hdd, if_neg hfd, if_neg hed, if_neg (by simpa using hcb)]

theorem tableSlot_prefixByte (index : Option IndexReg) (xy : IndexReg) (bs : List Byte) :
    tableSlot index (xy.prefixByte :: bs) = tableSlot (some xy) bs := by
  cases xy <;> rfl

/-- R126: the last of several index prefix bytes counts. -/
theorem exists_tableSlot_prefixBytes (index : Option IndexReg) (xys : List IndexReg) (bs : List Byte) :
    ∃ index', tableSlot index (xys.map IndexReg.prefixByte ++ bs) = tableSlot index' bs := by
  induction xys generalizing index with
  | nil => exact ⟨index, rfl⟩
  | cons xy xys ih =>
    obtain ⟨index', e⟩ := ih (some xy)
    exact ⟨index', (tableSlot_prefixByte index xy _).trans e⟩

/-- R126: the bytes of a whole instruction lead to its table and its slot, whatever index prefix came before an
instruction of the extended or the indexed table. -/
theorem tableSlot_encode {i : Instr} (index : Option IndexReg) (h : i.wf = true) (hp : i.isPrefix = false)
    (hb : ∀ xy, i.table ≠ .indexedBit xy)
    (hx : index = none ∨ i.table = .extended ∨ ∃ xy, i.table = .indexed xy) (rest : List Byte) :
    tableSlot index (encode i ++ rest) = (i.table, encodeSlot i ++ rest) := by
  unfold encode
  cases ht : i.table with
  | standard =>
    obtain rfl : index = none := by simpa [ht] using hx
    exact tableSlot_encodeSlot (index := none) h hp ht rest
  | bit =>
    obtain rfl : index = none := by simpa [ht] using hx
    rfl
  | extended => rfl
  | indexed xy => exact (tableSlot_prefixByte index xy _).trans (tableSlot_encodeSlot (index := some xy) h hp ht rest)
  | indexedBit xy => exact absurd ht (hb xy)

/-- Settles O25: index prefixes are skipped, the instruction's own prefix selects its table, its slot decodes there. -/
theorem decodeOfAWholeByteString : Obligations.DecodeOfAWholeByteString := by
  intro i xys rest h hp hb hx
  have hs : tableSlot none (xys.map IndexReg.prefixByte ++ encode i ++ rest) = (i.table, encodeSlot i ++ rest) := by
    rw [List.append_assoc]
    obtain rfl | hx := hx
    · exact tableSlot_encode none h hp hb (.inl rfl) rest
    · obtain ⟨index, e⟩ := exists_tableSlot_prefixBytes none xys (encode i ++ rest)
      exact e.trans (tableSlot_encode index h hp hb (.inr hx) rest)
  rw [decodeString, hs]
  exact decode_encodeSlot h rest

end Sys2Proof
end

section
/-! Fetch steps: the machine runs the instruction that the bytes at `PC` encode (30_encoding.md R110 to R117, R126). -/

namespace Sys2Proof.Machine

/-! ### What a fetch step reads -/

theorem step_of_fetches {s : State} (h : s.Fetches) : step s = State.fetchStep { s with intBlocked := false } := by
  rw [step_eq, h.noReset, h.noNmi, h.noInt, h.running]
  rfl

/-- A state that has just recorded a read of `a` reads on from there. -/
theorem State.answers_of_record {s t : State} {a : Word} {b : Byte} {bs : List Byte}
    (h : (s.record (.memRead a b)).answers (a + 1) bs = true) (hm : t.mem = s.mem) (hr : t.regions = s.regions)
    (hp : t.platform = s.platform) (hb : t.bus = .memRead a b :: s.bus) : t.answers (a + 1) bs = true :=
  (State.answers_congr (s := s.record (.memRead a b)) hm hr hp hb (a + 1) bs).trans h

theorem State.fetchOperands_bus {s : State} {bs : List Byte} (h : s.answers s.pc bs = true) :
    (State.fetchOperands bs.length s).bus = readsOf s.pc bs ++ s.bus := by
  induction bs generalizing s with
  | nil => rfl
  | cons b bs ih =>
    obtain ⟨rfl, ht⟩ := (State.answers_cons _ _ _ _).1 h
    have fetched := ih (s := s.fetch8.2) (State.answers_of_record ht rfl rfl rfl rfl)
    rw [List.length_cons, State.fetchOperands, fetched]
    simp [readsOf]

theorem State.afterFetch_bus {s : State} {i : Instr} {op : Byte} {ops : List Byte}
    (h : s.answers s.pc (op :: ops) = true) (hn : ops.length = i.operandBytes) :
    (s.afterFetch i).bus = readsOf s.pc (op :: ops) ++ s.bus := by
  obtain ⟨rfl, ht⟩ := (State.answers_cons _ _ _ _).1 h
  have fetched := State.fetchOperands_bus (s := s.fetchOp.2) (State.answers_of_record ht rfl rfl rfl rfl)
  rw [State.afterFetch, ← hn, fetched]
  simp [readsOf]

/-- The operand bytes a slot may look at are the bytes the reads are answered with. -/
theorem State.take_operands {s : State} {ops : List Byte} {k : Nat} (h : s.answers s.pc ops = true)
    (hk : k ≤ ops.length) :
    [ops.getD 0 0, ops.getD 1 0].take k = [s.fetch8.1, s.fetch8.2.fetch8.1].take k := by
  match ops with
  | [] => rw [Nat.le_zero.1 hk]; rfl
  | [a] =>
    obtain ⟨rfl, -⟩ := (State.answers_cons _ _ _ _).1 h
    match k with
    | 0 | 1 => rfl
  | a :: b :: ops =>
    obtain ⟨rfl, ht⟩ := (State.answers_cons _ _ _ _).1 h
    obtain ⟨rfl, -⟩ := (State.answers_cons _ _ _ _).1 ht
    rfl

/-- The instruction a fetch step dispatches is the one that the bytes read from `PC` on decode to (R110). -/
theorem State.nextInstr_of_decode {s : State} {i : Instr} {bs rest : List Byte} (ha : s.atPc bs)
    (hd : decode s.table bs = .instr i rest) : s.nextInstr = i := by
  obtain ⟨op, ops, rfl, rfl, hn, -⟩ := decode_eq_instr.1 hd
  obtain ⟨rfl, ht⟩ := (State.answers_cons _ _ _ _).1 ha
  exact decodeSlot_congr (State.take_operands (s := s.fetchOp.2) (State.answers_of_record ht rfl rfl rfl rfl) hn)

theorem State.atPc_unblocked {s : State} {bs : List Byte} (h : s.atPc bs) :
    State.atPc { s with intBlocked := false } bs :=
  (State.answers_congr (s := s) (t := { s with intBlocked := false }) rfl rfl rfl rfl s.pc bs).trans h

/-- Settles O9: the slot looks at its own bytes only, and these are the bytes that the reads are answered with. -/
theorem stepRunsTheDecodedInstruction : Obligations.StepRunsTheDecodedInstruction := by
  intro s i bs rest hf ha hd
  obtain ⟨op, ops, rfl, -, hn, rfl⟩ := decode_eq_instr.1 hd
  have hu := State.atPc_unblocked ha
  have hi : State.nextInstr { s with intBlocked := false } = i := State.nextInstr_of_decode hu hd
  have hlen : (op :: ops).length - (ops.drop i.operandBytes).length = i.operandBytes + 1 := by
    rw [List.length_cons, List.length_drop]
    omega
  rw [← List.take_append_drop i.operandBytes ops] at hu
  have hbus := State.afterFetch_bus (State.answers_of_append (bs := op :: ops.take i.operandBytes) hu)
    (List.length_take_of_le hn)
  rw [step_of_fetches hf, State.fetchStep, hi, State.afterFetch_eq, hbus, incR_eq, hlen]
  rfl

/-- A fetch step over the bytes of one instruction of the table that is looked in. -/
theorem step_encodeSlot {s : State} {i : Instr} (h : i.wf = true) (ht : s.table = i.table) (hf : s.Fetches)
    (ha : s.atPc (encodeSlot i)) :
    step s = exec i { s with
      intBlocked := false
      pc := s.pc + BitVec.ofNat 16 (encodeSlot i).length
      r := refreshed s.r 1
      clk := s.clk + 4
      bus := readsOf s.pc (encodeSlot i) ++ s.bus } := by
  have hd := decode_encodeSlot h []
  rw [List.append_nil, ← ht] at hd
  have hs := stepRunsTheDecodedInstruction s i _ _ hf ha hd
  rwa [List.length_nil, Nat.sub_zero, List.take_length] at hs

/-! ### Prefix bytes -/

/-- The state after a step over the prefix byte `p`, which selects a table or an index register (R112, R113, R451). -/
def State.afterPrefix (s : State) (p : Byte) (m : PrefixMode) (index : Option IndexReg) : State :=
  { s with
    prefixMode := m
    indexMode := index
    intBlocked := true
    pc := s.pc + 1
    r := refreshed s.r 1
    clk := s.clk + 4
    bus := .memRead s.pc p :: s.bus }

/-- No maskable interrupt is accepted after a prefix byte (R451), so the next step fetches again. -/
theorem State.Fetches.afterPrefix {s : State} (h : s.Fetches) (p : Byte) (m : PrefixMode) (index : Option IndexReg) :
    (s.afterPrefix p m index).Fetches :=
  ⟨h.noReset, h.noNmi, by simp [State.acceptsInt, State.afterPrefix], h.running⟩

theorem State.atPc_afterPrefix {s : State} {p : Byte} {bs : List Byte} (h : s.atPc (p :: bs)) (m : PrefixMode)
    (index : Option IndexReg) : (s.afterPrefix p m index).atPc bs :=
  State.answers_of_record ((State.answers_cons _ _ _ _).1 h).2 rfl rfl rfl rfl

/-- R112: an index prefix byte, with or without another one before it. -/
theorem step_indexPrefix {s : State} {xy : IndexReg} (hp : s.prefixMode = .normal) (hf : s.Fetches)
    (ha : s.atPc [xy.prefixByte]) : step s = .next (s.afterPrefix xy.prefixByte .normal (some xy)) := by
  have selects : ∃ i, decode s.table [xy.prefixByte] = .instr i [] ∧ ∀ u, exec i u = u.selectIndex xy := by
    rw [State.table, hp]
    cases s.indexMode <;> cases xy <;> exact ⟨_, rfl, fun _ => rfl⟩
  obtain ⟨i, hd, he⟩ := selects
  rw [stepRunsTheDecodedInstruction s i _ _ hf ha hd, he, State.afterPrefix, ← hp]
  rfl

theorem State.not_prefixPending_iff (s : State) : ¬ s.prefixPending ↔ s.prefixMode = .normal ∧ s.indexMode = none := by
  simp only [State.prefixPending, not_or, not_not]

/-- R113: a prefix byte that selects a table, with no index prefix before it. -/
theorem step_selectTable {s : State} {i : Instr} {p : Byte} {m : PrefixMode} (hx : s.indexMode = none) (hf : s.Fetches)
    (ha : s.atPc [p]) (hd : decode s.table [p] = .instr i []) (he : ∀ u, exec i u = u.selectTable m) :
    step s = .next (s.afterPrefix p m none) := by
  rw [stepRunsTheDecodedInstruction s i _ _ hf ha hd, he, State.afterPrefix, ← hx]
  rfl

/-- R113, R115: the prefix byte of a table, with no prefix before it. -/
theorem step_tablePrefix {s : State} {t : Table} {p : Byte} (ht : t.prefixBytes = [p]) (hp : ¬ s.prefixPending)
    (hf : s.Fetches) (ha : s.atPc [p]) : step s = .next (s.afterPrefix p (tablePrefixMode t) (tableIndexMode t)) := by
  obtain ⟨hm, hx⟩ := s.not_prefixPending_iff.1 hp
  have htab : s.table = .standard := by rw [State.table, hm, hx]; rfl
  cases t with
  | standard | indexedBit _ => nomatch ht
  | indexed xy =>
    cases ht
    exact step_indexPrefix hm hf ha
  | bit | extended =>
    cases ht
    exact step_selectTable hx hf ha (by rw [htab]; rfl) fun _ => rfl

theorem State.table_afterPrefix {t : Table} {p : Byte} (ht : t.prefixBytes = [p]) (s : State) :
    (s.afterPrefix p (tablePrefixMode t) (tableIndexMode t)).table = t := by
  cases t with
  | standard | indexedBit _ => nomatch ht
  | _ => rfl

theorem run_one (s : State) : run 1 s = step s := by
  rw [run_succ]
  cases step s <;> rfl

theorem add_one_add_ofNat (w : Word) (n : Nat) : w + 1#16 + BitVec.ofNat 16 n = w + BitVec.ofNat 16 (n + 1) := by
  rw [Nat.add_comm, BitVec.ofNat_add, BitVec.add_assoc]

/-- Settles O13: by induction on the prefix bytes before the last; after each one the next step fetches. -/
theorem indexPrefixChain : Obligations.IndexPrefixChain := by
  intro xys xy s hp hf ha
  induction xys generalizing s with
  | nil => exact (run_one s).trans ((step_indexPrefix hp hf ha).trans (by rw [State.afterPrefix, ← hp]; rfl))
  | cons x xys ih =>
    have hs := step_indexPrefix hp hf (State.answers_of_append (bs := [x.prefixByte]) ha)
    have ht := ih (s.afterPrefix x.prefixByte .normal (some x)) rfl (hf.afterPrefix _ _ _)
      (State.atPc_afterPrefix ha _ _)
    rw [List.length_cons, run_succ, hs]
    have hclk : s.clk + 4 + 4 * (xys.length + 1) = s.clk + 4 * (xys.length + 1 + 1) := by omega
    exact ht.trans (by simp [State.afterPrefix, hp, hclk, add_one_add_ofNat, refreshed_add, readsOf, Nat.add_comm 1])

/-- R100: no prefix byte leads to the standard table and one to each other table that a step can look in. -/
theorem table_standard_or_one_prefix {t : Table} (h : ∀ xy, t ≠ .indexedBit xy) :
    t = .standard ∨ ∃ p, t.prefixBytes = [p] := by
  cases t with
  | standard => exact .inl rfl
  | indexedBit xy => exact absurd rfl (h xy)
  | _ => exact .inr ⟨_, rfl⟩

/-- Settles O10: the prefix byte, if the table has one, selects the table, and the next step fetches the slot there. -/
theorem stepsRunAWholeInstruction : Obligations.StepsRunAWholeInstruction := by
  intro i s h _ hb hp hf ha
  unfold encode at ha ⊢
  obtain ht | ⟨p, ht⟩ := table_standard_or_one_prefix hb
  · obtain ⟨hm, hx⟩ := s.not_prefixPending_iff.1 hp
    have htab : s.table = i.table := by rw [State.table, hm, hx, ht]; rfl
    rw [ht] at ha
    rw [ht]
    refine (run_one s).trans ((step_encodeSlot h htab hf ha).trans ?_)
    simp [hm, hx, tablePrefixMode, tableIndexMode, Table.prefixBytes]
  · rw [ht] at ha ⊢
    rw [List.length_singleton, run_succ, step_tablePrefix ht hp hf (State.answers_of_append ha)]
    refine (run_one _).trans ((step_encodeSlot h (s.table_afterPrefix ht) (hf.afterPrefix _ _ _)
      (State.atPc_afterPrefix ha _ _)).trans ?_)
    simp [State.afterPrefix, add_one_add_ofNat, refreshed_add, readsOf]

end Sys2Proof.Machine
end

section
/-! What completes and what stays pending, the jumps, and the invariant that every step keeps (30_encoding.md R107, R110
to R118; 48_jump_call_return.md R380 to R387). -/

namespace Sys2Proof.Machine

/-- Settles O12: a handler ends with `complete()`, which clears `PREFIX` and `INDEX`. -/
theorem everyInstructionCompletes : Obligations.EveryInstructionCompletes := by
  intro i s h hp
  obtain ⟨t, k, e⟩ := exec_completes h hp s
  exact ⟨_, e, rfl, rfl⟩

/-- Settles O60: a prefix byte is its record update; a hand-over slot runs the handler of the instruction it holds. -/
theorem prefixBytesAndHandOver : Obligations.PrefixBytesAndHandOver := by
  refine fun s xy i => ⟨rfl, rfl, rfl, rfl, rfl, rfl, rfl, fun h => ?_, fun h => ?_⟩
  · obtain ⟨t, ht⟩ := exec_next_of_wf h s
    exact ⟨t, ht, (exec_xyStandard h s).symm.trans ht⟩
  · obtain ⟨t, ht⟩ := exec_next_of_wf h s
    exact ⟨t, ht, (exec_indexedBit h s).symm.trans ht⟩

/-! ### Jumps -/

theorem exec_jpCcNn (cc : Cond) (nn : Word) (s : State) :
    exec (.jpCcNn cc nn) s =
      .next (State.done { s with pc := if condHolds cc s.main.f then nn else s.pc, wz := nn } 6) := by
  show (if condHolds cc s.main.f then _ else _) = _
  split <;> rfl

theorem exec_jrCc (cc : Cond) (e : Byte) (s : State) :
    exec (.jrCc cc e) s = .next (if condHolds cc s.main.f
      then State.done { s with pc := s.relative e, wz := s.relative e } 8 else s.done 3) := by
  show (if condHolds cc s.main.f then _ else _) = _
  split <;> rfl

theorem exec_djnz (e : Byte) (s : State) :
    exec (.djnz e) s = .next (if s.main.b = 1
      then State.done { s with main := { s.main with b := 0 } } 4
      else State.done { s with
        main := { s.main with b := s.main.b - 1 }, pc := s.relative e, wz := s.relative e } 9) := by
  show (if s.main.b - 1 ≠ 0 then _ else _) = _
  by_cases hb : s.main.b = 1
  · have h0 : s.main.b - 1 = 0 := by rw [hb]; rfl
    rw [if_neg (not_not.2 h0), if_pos hb, ← h0]
    rfl
  · have h0 : s.main.b - 1 ≠ 0 := by bv_omega
    rw [if_pos h0, if_neg hb]
    rfl

/-- Settles O54: a condition is its flag test; a jump taken or not is its record update. -/
theorem jumps : Obligations.Jumps :=
  ⟨fun _ => rfl, fun s cc nn e _ => ⟨rfl, exec_jpCcNn cc nn s, rfl, exec_jrCc cc e s, rfl, rfl, exec_djnz e s⟩⟩

/-! ### What a fetch step leaves pending -/

theorem exec_of_step_fetches {s t : State} (hf : s.Fetches) (h : step s = .next t) :
    exec s.nextInstr (State.afterFetch { s with intBlocked := false } s.nextInstr) = .next t :=
  (step_of_fetches hf).symm.trans h

/-- R111: after a dispatching step nothing is pending. -/
theorem not_pending_of_dispatch {s t : State} (hf : s.Fetches) (hp : s.nextInstr.isPrefix = false)
    (h : step s = .next t) : t.prefixMode = .normal ∧ t.indexMode = none := by
  obtain ⟨u, k, e⟩ := exec_completes s.nextInstr_slotOf.wf hp
    (State.afterFetch { s with intBlocked := false } s.nextInstr)
  cases e.symm.trans (exec_of_step_fetches hf h)
  exact ⟨rfl, rfl⟩

/-- A table that index prefixes select is looked in with `PREFIX` at `None` (R110). -/
theorem State.eq_of_table_eq_tableOfIndex {s : State} {index : Option IndexReg} (h : s.table = tableOfIndex index) :
    s.prefixMode = .normal ∧ s.indexMode = index := by
  unfold State.table at h
  cases hm : s.prefixMode with
  | normal =>
    rw [hm] at h
    cases hx : s.indexMode <;> cases index <;> rw [hx] at h <;> cases h <;> exact ⟨rfl, rfl⟩
  | bit | extended => rw [hm] at h; cases index <;> nomatch h

/-- R112, R113, R118: a prefix byte that selects the bit table had no index prefix before it. -/
theorem exec_prefix_bitTable {i : Instr} {u t : State} (hp : i.isPrefix = true) (ht : i.table = u.table)
    (h : exec i u = .next t) (hm : t.prefixMode = .bit) : t.indexMode = none := by
  cases i with
  | prefixCb =>
    cases h
    exact (State.eq_of_table_eq_tableOfIndex (index := none) ht.symm).2
  | prefixDd | prefixFd =>
    cases h
    nomatch hm.symm.trans (State.eq_of_table_eq_tableOfIndex (index := none) ht.symm).1
  | xyPrefixDd xy | xyPrefixFd xy =>
    cases h
    nomatch hm.symm.trans (State.eq_of_table_eq_tableOfIndex (index := some xy) ht.symm).1
  | prefixEd | xyPrefixEd _ =>
    cases h
    nomatch hm
  | _ => nomatch hp

/-- A signal or a halted step keeps `PREFIX` and `INDEX`, or, at reset, clears them. -/
theorem step_keeps_pending {s t : State} (h : step s = .next t) :
    s.Fetches ∨ ¬ t.prefixPending ∨ t.prefixMode = s.prefixMode ∧ t.indexMode = s.indexMode := by
  obtain ⟨-, e⟩ | ⟨-, -, e⟩ | ⟨-, -, -, e⟩ | ⟨-, -, -, -, e⟩ | ⟨hf, -⟩ := step_cases h
  · cases e
    exact .inr (.inl ((State.not_prefixPending_iff _).2 ⟨rfl, rfl⟩))
  · cases e
    rw [State.nmiService, State.enterSignal_eq]
    exact .inr (.inr ⟨rfl, rfl⟩)
  · cases e
    rw [State.intService, State.enterSignal_eq]
    dsimp only
    split <;> exact .inr (.inr ⟨rfl, rfl⟩)
  · cases e
    exact .inr (.inr ⟨rfl, rfl⟩)
  · exact .inl hf

/-- R118: `PREFIX = Bit` implies `INDEX = None`, after every step. -/
theorem step_bitTable {s t : State} (hs : s.prefixMode = .bit → s.indexMode = none) (h : step s = .next t) :
    t.prefixMode = .bit → t.indexMode = none := by
  obtain hf | hp | ⟨hm, hx⟩ := step_keeps_pending h
  · cases hp : s.nextInstr.isPrefix with
    | true =>
      have ht : s.nextInstr.table = State.table (State.afterFetch { s with intBlocked := false } s.nextInstr) := by
        rw [State.afterFetch_eq]
        exact s.nextInstr_slotOf.table
      exact exec_prefix_bitTable hp ht (exec_of_step_fetches hf h)
    | false => exact fun _ => (not_pending_of_dispatch hf hp h).2
  · exact fun _ => (t.not_prefixPending_iff.1 hp).2
  · rwa [hm, hx]

/-! ### `INT_BLOCKED` (R37, R451) -/

theorem State.controlEffect_intBlocked (s : State) (i : Instr) :
    (s.controlEffect i).intBlocked = true ↔ s.intBlocked = true ∨ i.isPrefix = true ∨ i = .ei := by
  cases i with
  | ei => exact iff_of_true rfl (.inr (.inr rfl))
  | prefixCb | prefixDd | prefixEd | prefixFd | xyPrefixDd _ | xyPrefixFd _ | xyPrefixEd _ =>
    exact iff_of_true rfl (.inr (.inl rfl))
  | _ => exact (or_iff_left (by rintro (h | h) <;> nomatch h)).symm

theorem isPrefix_handler {i : Instr} (h : i.wf = true) : i.handler.isPrefix = i.isPrefix := by
  cases i with
  | xyStandard xy i =>
    obtain ⟨ht, hr, -⟩ := Instr.wf_xyStandard.1 h
    exact isPrefix_of_not_replacedByIndex ht hr
  | indexedBit xy i => exact isPrefix_of_table_indexedBit (Instr.wf_indexedBit.1 h).1
  | _ => rfl

theorem step_intBlocked_iff {s t : State} (h : step s = .next t) :
    t.intBlocked = true ↔ s.Fetches ∧ (s.nextInstr.isPrefix = true ∨ s.nextInstr.handler = .ei) := by
  obtain ⟨hr, rfl⟩ | ⟨-, hn, e⟩ | ⟨-, -, hi, e⟩ | ⟨-, -, -, hh, rfl⟩ | ⟨hf, e⟩ := step_control_cases h
  · exact iff_of_false nofun fun hf => nomatch hr.symm.trans hf.1.noReset
  · exact iff_of_false (Bool.eq_false_iff.1 e.intBlocked) fun hf => nomatch hn.symm.trans hf.1.noNmi
  · exact iff_of_false (Bool.eq_false_iff.1 e.intBlocked) fun hf => nomatch hi.symm.trans hf.1.noInt
  · exact iff_of_false nofun fun hf => nomatch hh.symm.trans hf.1.running
  · rw [e.intBlocked, State.controlEffect_intBlocked, isPrefix_handler s.nextInstr_slotOf.wf]
    simp [hf]

/-- Settles O17: a signal keeps `PREFIX` and `INDEX`, a prefix byte sets them by its table, any other instruction clears
both. -/
theorem decodeStateAfterAStep : Obligations.DecodeStateAfterAStep := by
  refine ⟨fun s t hs h => ⟨step_bitTable hs.bitTable h, step_intBlocked_iff h, fun hf hp => ?_⟩, fun s hm => ?_⟩
  · exact not_pending_of_dispatch hf hp h
  · rw [State.table, hm]

/-! ### The halted state (R25, R277) -/

theorem State.nextInstr_encodesTo (s : State) : ∃ a b, s.nextInstr.EncodesTo (s.peek s.pc) a b :=
  ⟨_, _, decodeSlot_encodesTo s.table _ _ _⟩

/-- `HALT` is its one byte, also after an index prefix (R114 item 5). -/
theorem encodeSlot_of_handler_halt {i : Instr} (h : i.wf = true) (hh : i.handler = .halt) :
    encodeSlot i = [0x76] ∧ i.operandBytes = 0 := by
  cases i with
  | halt => exact ⟨rfl, rfl⟩
  | xyStandard xy i =>
    obtain rfl : i = .halt := hh
    exact ⟨rfl, rfl⟩
  | indexedBit xy i =>
    obtain rfl : i = .halt := hh
    nomatch (Instr.wf_indexedBit.1 h).1
  | _ => nomatch hh

/-- A step that dispatches `HALT` read its byte at `PC` and leaves `PC` there. -/
theorem step_of_halt {s t : State} (hf : s.Fetches) (hh : s.nextInstr.handler = .halt) (h : step s = .next t) :
    s.peek s.pc = 0x76 ∧ ¬ t.prefixPending ∧ t.pc = s.pc ∧ t.bus = .memRead s.pc 0x76 :: s.bus ∧ t.mem = s.mem ∧
      t.regions = s.regions := by
  have hw := s.nextInstr_slotOf.wf
  obtain ⟨hbytes, hn⟩ := encodeSlot_of_handler_halt hw hh
  have hbyte : s.peek s.pc = 0x76 := by
    obtain ⟨a, b, he⟩ := s.nextInstr_encodesTo
    rw [Instr.EncodesTo, hbytes, hn] at he
    exact (List.cons.inj he).1.symm
  have ht := exec_of_step_fetches hf h
  rw [(exec_handler hw).2, hh, State.afterFetch, hn] at ht
  cases ht
  refine ⟨hbyte, (State.not_prefixPending_iff _).2 ⟨rfl, rfl⟩, BitVec.add_sub_cancel s.pc 1, ?_, rfl, rfl⟩
  rw [← hbyte]
  rfl

/-! ### The invariant -/

/-- Accesses keep the canonical form of memory. -/
theorem wf_of_replay {kind : Word → MemKind} {m m' : Memory} {xs : List BusAccess} (h : replay kind m xs = some m')
    (hm : m.wf = true) : m'.wf = true := by
  induction xs generalizing m with
  | nil =>
    cases h
    exact hm
  | cons x xs ih =>
    cases x with
    | memRead a v =>
      rw [replay] at h
      split at h
      · exact ih h hm
      · nomatch h
    | memWrite a v =>
      refine ih h ?_
      split
      · exact Memory.wf_write a v hm
      · exact hm
    | portRead _ _ | portWrite _ _ => exact ih h hm

theorem step_keeps_wf {s t : State} (hs : s.mem.wf = true) (h : step s = .next t) : t.mem.wf = true := by
  obtain ⟨xs, -, hx⟩ := step_explains h
  exact wf_of_replay hx hs

/-- While a prefix is pending no maskable interrupt can be accepted (R445, R451). -/
theorem step_unsplit {s t : State} (hs : s.Inv) (h : step s = .next t) (hp : t.prefixPending) :
    t.intBlocked = true ∨ t.iff1 = false := by
  obtain ⟨-, rfl⟩ | ⟨-, -, e⟩ | ⟨-, -, -, e⟩ | ⟨-, -, -, hh, rfl⟩ | ⟨hf, -⟩ := step_control_cases h
  · exact .inr rfl
  · exact .inr e.iff1
  · exact .inr e.iff1
  · exact absurd hp (hs.halted hh).1
  · cases hi : s.nextInstr.isPrefix with
    | true => exact .inl ((step_intBlocked_iff h).2 ⟨hf, .inl hi⟩)
    | false => exact absurd hp (t.not_prefixPending_iff.2 (not_pending_of_dispatch hf hi h))

/-- A core that a step leaves halted was halted already or has just dispatched `HALT`. -/
theorem step_halted {s t : State} (h : step s = .next t) (ht : t.halted = true) :
    s.halted = true ∧ t = { s with intBlocked := false, r := refreshed s.r 1, clk := s.clk + 4 } ∨
      s.Fetches ∧ s.nextInstr.handler = .halt := by
  obtain ⟨-, rfl⟩ | ⟨-, -, e⟩ | ⟨-, -, -, e⟩ | ⟨-, -, -, hh, rfl⟩ | ⟨hf, e⟩ := step_control_cases h
  · nomatch ht
  · nomatch e.halted.symm.trans ht
  · nomatch e.halted.symm.trans ht
  · exact .inl ⟨hh, rfl⟩
  · obtain hh | hh := (State.controlEffect_halted _).1 (e.halted.symm.trans ht)
    · nomatch hf.running.symm.trans hh
    · exact .inr ⟨hf, hh⟩

theorem State.Inv.step {s t : State} (hs : s.Inv) (h : Machine.step s = .next t) : t.Inv where
  memory := step_keeps_wf hs.memory h
  bitTable := step_bitTable hs.bitTable h
  unsplit := step_unsplit hs h
  halted := by
    intro ht
    obtain ⟨hh, rfl⟩ | ⟨hf, hh⟩ := step_halted h ht
    · exact hs.halted hh
    · obtain ⟨-, hp, hpc, hbus, -, -⟩ := step_of_halt hf hh h
      rw [hpc, hbus]
      exact ⟨hp, rfl⟩
  haltByte := by
    intro ht hk
    obtain ⟨hh, rfl⟩ | ⟨hf, hh⟩ := step_halted h ht
    · exact hs.haltByte hh hk
    · obtain ⟨hbyte, -, hpc, -, hm, hr⟩ := step_of_halt hf hh h
      rw [hpc, State.memKind_eq_of_regions hr] at hk
      rw [hpc, State.content_eq_of_mem hm, ← State.peek_of_plain hk, hbyte]

theorem State.Inv.host {s t : State} {x : HostAction} (hs : s.Inv) (h : s.host x = some t)
    (hb : t.halted = true → t.memKind t.pc ≠ .device → t.content t.pc = 0x76) : t.Inv := by
  cases x with
  | driveReset _ | driveNmi _ | driveInt _ =>
    cases h
    exact ⟨hs.memory, hs.bitTable, hs.unsplit, hs.halted, hb⟩
  | store a v =>
    obtain ⟨-, rfl⟩ := State.betweenInstructions_eq_some.1 h
    exact ⟨State.wf_placeBytes a [v] hs.memory, hs.bitTable, hs.unsplit, hs.halted, hb⟩
  | replaceMemory cells =>
    obtain ⟨-, rfl⟩ := State.betweenInstructions_eq_some.1 h
    exact ⟨Memory.wf_replace cells, hs.bitTable, hs.unsplit, hs.halted, hb⟩
  | mapMemory _ | swapPlatform _ | answerPort _ | replacePortAnswers _ =>
    obtain ⟨-, rfl⟩ := State.betweenInstructions_eq_some.1 h
    exact ⟨hs.memory, hs.bitTable, hs.unsplit, hs.halted, hb⟩

/-- Settles O15: clause by clause for a step; an action of the host writes no register and keeps memory canonical. -/
theorem invariantKeptByEveryStep : Obligations.InvariantKeptByEveryStep :=
  ⟨fun _ _ => State.Inv.step, fun _ _ _ => State.Inv.host⟩

end Sys2Proof.Machine
end

section
/-! The 8-bit load group, and the 16-bit loads of immediates and of `SP` (40_load8.md R140 to R157; 41_load16_stack.md R170, R171,
R178, R179). -/

namespace Sys2Proof.Machine

/-! ### Values -/

/-- R154, R155: `S`, `Z`, `F5`, `F3` from the byte loaded, `PV` from `IFF2`, `C` kept. -/
theorem ldAIRFlags_eq (v f : Byte) (iff2 : Bool) :
    ldAIRFlags v f iff2 = resultFlags v false iff2 false (f.getLsbD 0) := by
  rw [ldAIRFlags, sz53, resultFlags, flagByte]
  apply byte_ext <;> simp

/-- A carry leaves the low byte upwards only (R8). -/
theorem lo_add (u v : Word) : lo (u + v) = lo u + lo v := by
  simp only [lo, ← BitVec.setWidth_eq_extractLsb' (show 8 ≤ 16 by decide)]
  exact BitVec.setWidth_add u v (by decide)

/-- The low byte of `BC + 1` and `DE + 1` does not depend on `B` and `D` (R151, R152). -/
theorem lo_join_add_one (h l : Byte) : lo (join h l + 1) = l + 1 := by
  rw [lo_add, lo_join]
  rfl

/-! ### Handlers -/

/-- `WZ` is none of the registers of R104, so the two writes commute. -/
theorem State.setReg_setWz (s : State) (r : Reg8) (v : Byte) (w : Word) :
    (s.setWz w).setReg r v = (s.setReg r v).setWz w := by cases r <;> rfl

/-- R143: the byte is read at the address `WZ` then holds. -/
theorem exec_ldRIndXy (xy : IndexReg) (r : Reg8) (d : Byte) (s : State) :
    exec (.ldRIndXy xy r d) s = .next ((((s.record (.memRead (s.ea xy d) (s.peek (s.ea xy d)))).setReg r
      (s.peek (s.ea xy d))).setWz (s.ea xy d)).done 11) := by
  rw [← State.setReg_setWz]
  rfl

/-- R151 to R153: the byte stored is `A`, and the high byte of `WZ` is `A` too. -/
theorem State.complete_storeA (s : State) {a : Word} {z : Byte} (hz : lo (a + 1) = z) (k : Nat) :
    s.stores ((s.storeA a).complete k) [(a, s.main.a)] ∧
      (s.storeA a).complete k = State.done { s with
        mem := ((s.storeA a).complete k).mem, wz := join s.main.a z, bus := .memWrite a s.main.a :: s.bus } k := by
  subst hz
  exact ⟨State.stores_one rfl, rfl⟩

/-! ### The obligations -/

/-- Settles O34: a load writes its destination and ends; the flags of `LD A,I` and `LD A,R` are those of the byte loaded. -/
theorem loadRegister : Obligations.LoadRegister := by
  intro s r y z n xy h dd nn
  refine ⟨rfl, rfl, rfl, rfl, rfl, rfl, ?ldAI, ?ldAR, rfl, rfl, rfl, rfl, rfl, rfl, rfl, rfl⟩
  case ldAI => rw [← ldAIRFlags_eq]; rfl
  case ldAR => rw [← ldAIRFlags_eq]; rfl

/-- Settles O35: each load is one recorded read whose answer its destination takes. -/
theorem loadByteFromMemory : Obligations.LoadByteFromMemory := fun s r xy d _ =>
  ⟨rfl, exec_ldRIndXy xy r d s, rfl, rfl, rfl⟩

/-- Settles O36: each store is one write to RAM; through `BC` and `DE` the low byte of `WZ` is `C + 1` and `E + 1`. -/
theorem storeByte : Obligations.StoreByte := by
  intro s r xy d n nn
  refine ⟨?ldIndHlR, ?ldIndXyR, ?ldIndHlN, ?ldIndXyN, ?ldIndBcA, ?ldIndDeA, ?ldIndNnA⟩
  case ldIndHlR => exact ⟨_, rfl, State.stores_one rfl, rfl⟩
  case ldIndXyR => exact ⟨_, rfl, State.stores_one rfl, rfl⟩
  case ldIndHlN => exact ⟨_, rfl, State.stores_one rfl, rfl⟩
  case ldIndXyN => exact ⟨_, rfl, State.stores_one rfl, rfl⟩
  case ldIndBcA => exact ⟨_, rfl, s.complete_storeA (lo_join_add_one s.main.b s.main.c) 3⟩
  case ldIndDeA => exact ⟨_, rfl, s.complete_storeA (lo_join_add_one s.main.d s.main.e) 3⟩
  case ldIndNnA => exact ⟨_, rfl, s.complete_storeA rfl 9⟩

end Sys2Proof.Machine
end

section
/-! The 16-bit loads from and stores to an absolute address (41_load16_stack.md R172 to R177). -/

namespace Sys2Proof.Machine

/-! ### Loads: `WZ` is none of the destinations, so the two assignments commute -/

theorem State.setPair_setWz (s : State) (dd : Pair) (v w : Word) :
    (s.setWz w).setPair dd v = (s.setPair dd v).setWz w := by cases dd <;> rfl

theorem State.setXy_setWz (s : State) (xy : IndexReg) (v w : Word) :
    (s.setWz w).setXy xy v = (s.setXy xy v).setWz w := by cases xy <;> rfl

/-- R173: the handler writes `WZ` last; here it is written right after the reads. -/
theorem exec_ldDdIndNn (dd : Pair) (nn : Word) (s : State) :
    exec (.ldDdIndNn dd nn) s = .next
      ((((s.memRead16 nn).2.setWz (nn + 1)).setPair dd (join (s.peekNext nn) (s.peek nn))).done 12) := by
  rw [State.setPair_setWz]
  rfl

/-- R174: as R173, with an index register. -/
theorem exec_ldXyIndNn (xy : IndexReg) (nn : Word) (s : State) :
    exec (.ldXyIndNn xy nn) s = .next
      ((((s.memRead16 nn).2.setWz (nn + 1)).setXy xy (join (s.peekNext nn) (s.peek nn))).done 12) := by
  rw [State.setXy_setWz]
  rfl

/-! ### Stores -/

/-- A word stored at `nn`, its stores and the whole next state, when `h` and `l` are the word's halves (R10, R175 to R177). -/
theorem State.complete_memWrite16 (s : State) (nn : Word) {v : Word} {h l : Byte} (hh : hi v = h) (hl : lo v = l)
    (k : Nat) :
    s.stores (((s.memWrite16 nn v).setWz (nn + 1)).complete k) [(nn + 1, h), (nn, l)] ∧
      ((s.memWrite16 nn v).setWz (nn + 1)).complete k = State.done { s with
        mem := (s.memWrite16 nn v).mem, wz := nn + 1
        bus := .memWrite (nn + 1) h :: .memWrite nn l :: s.bus } k := by
  subst hh hl
  exact ⟨State.stores_two (s.memWrite16_mem nn v), rfl⟩

/-! ### The obligation -/

/-- Settles O37: a load's two recorded reads give the word its destination takes; a store is two writes, the low byte first. -/
theorem loadAndStoreWord : Obligations.LoadAndStoreWord := by
  intro s xy dd nn
  refine ⟨?ldHlIndNn, ?ldDdIndNn, ?ldXyIndNn, ?ldIndNnHl, ?ldIndNnDd, ?ldIndNnXy⟩
  case ldHlIndNn => rfl
  case ldDdIndNn => exact exec_ldDdIndNn dd nn s
  case ldXyIndNn => exact exec_ldXyIndNn xy nn s
  case ldIndNnHl => exact ⟨_, rfl, s.complete_memWrite16 nn (hi_join ..) (lo_join ..) 12⟩
  case ldIndNnDd => exact ⟨_, rfl, s.complete_memWrite16 nn rfl rfl 12⟩
  case ldIndNnXy => exact ⟨_, rfl, s.complete_memWrite16 nn rfl rfl 12⟩

end Sys2Proof.Machine
end

section
/-! Exchanges, block transfers and block searches (42_exchange_block.md R200 to R213). -/

namespace Sys2Proof.Machine

/-! ### Flags of one element (R205, R210) -/

/-- R205: `F5` and `F3` are bits 1 and 3 of `A` plus the byte moved; `S`, `Z` and `C` are kept. -/
theorem ldBlockFlags_eq (f a t : Byte) (more : Bool) :
    ldBlockFlags f a t more = flagByte (f.getLsbD 7) (f.getLsbD 6) ((a + t).getLsbD 1) false ((a + t).getLsbD 3) more
      false (f.getLsbD 0) := by
  rw [ldBlockFlags, flagByte]
  generalize a + t = n
  apply byte_ext <;> simp

theorem toNat_and_low4 (v : Byte) : (v &&& 0x0F).toNat = v.toNat % 16 := by
  rw [BitVec.toNat_and]
  exact Nat.and_two_pow_sub_one_eq_mod v.toNat 4

theorem sub_carryByte (r : Byte) (h : Bool) : r - carryByte h = if h then r - 1 else r := by
  cases h with
  | false => exact BitVec.sub_zero r
  | true => rfl

/-- R210: the flags of a comparison; `F5` and `F3` are bits 1 and 3 of the difference less the half borrow. -/
theorem cpBlockFlags_eq (f a t : Byte) (more : Bool) :
    cpBlockFlags f a t more =
      let h := decide (a.toNat % 16 < t.toNat % 16)
      let n := if h then a - t - 1 else a - t
      flagByte ((a - t).getLsbD 7) (a = t) (n.getLsbD 1) h (n.getLsbD 3) more true (f.getLsbD 0) := by
  simp only [cpBlockFlags, toNat_and_low4, sub_carryByte, sub_eq_zero (a := a) (b := t)]
  generalize decide (a.toNat % 16 < t.toNat % 16) = h
  generalize (if h then a - t - 1 else a - t) = n
  rw [flagByte]
  apply byte_ext <;> simp

/-! ### One element (R205, R210) -/

/-- `BC` counts down to 0 at the element that finds it at 1. -/
theorem decide_join_sub_one_ne_zero (w : Word) :
    decide (join (hi (w - 1)) (lo (w - 1)) ≠ 0) = decide (w ≠ 1) := by
  rw [join_hi_lo]
  exact decide_eq_decide.2 (not_congr sub_eq_zero)

theorem State.ldBlock_more (s : State) (dir : Word) : decide ((s.ldBlock dir).bc ≠ 0) = decide (s.bc ≠ 1) :=
  decide_join_sub_one_ne_zero s.bc

theorem State.cpBlock_more (s : State) (dir : Word) : decide ((s.cpBlock dir).2.bc ≠ 0) = decide (s.bc ≠ 1) :=
  decide_join_sub_one_ne_zero s.bc

theorem State.cpBlock_differs (s : State) (dir : Word) :
    decide ((s.cpBlock dir).1 ≠ 0) = decide (s.main.a ≠ s.peek s.hl) :=
  decide_eq_decide.2 (not_congr sub_eq_zero)

theorem State.ldBlock_eq (s : State) (dir : Word) :
    s.ldBlock dir = { s with
      main := { a := s.main.a, b := hi (s.bc - 1), c := lo (s.bc - 1), d := hi (s.de + dir), e := lo (s.de + dir)
                h := hi (s.hl + dir), l := lo (s.hl + dir)
                f := ldBlockFlags s.main.f s.main.a (s.peek s.hl) (s.bc ≠ 1) }
      mem := s.mem.store s.regions s.de (s.peek s.hl)
      bus := .memWrite s.de (s.peek s.hl) :: .memRead s.hl (s.peek s.hl) :: s.bus } := by
  rw [← s.ldBlock_more dir]
  rfl

theorem State.cpBlock_snd (s : State) (dir : Word) :
    (s.cpBlock dir).2 = { s with
      main := { s.main with
        b := hi (s.bc - 1), c := lo (s.bc - 1), h := hi (s.hl + dir), l := lo (s.hl + dir)
        f := cpBlockFlags s.main.f s.main.a (s.peek s.hl) (s.bc ≠ 1) }
      wz := s.wz + dir
      bus := .memRead s.hl (s.peek s.hl) :: s.bus } := by
  rw [← s.cpBlock_more dir]
  rfl

/-- R206, R209, R211: a repeat goes back to the `ED` byte, with `WZ` one more than that, and takes 5 T-states more. -/
theorem State.finishRepeat_eq (s : State) (again : Bool) :
    s.finishRepeat again = .next (State.done { s with
      pc := if again then s.pc - 2 else s.pc, wz := if again then s.pc - 1 else s.wz } (if again then 13 else 8)) := by
  cases again with
  | false => rfl
  | true =>
    have hwz : s.pc - 2 + 1 = s.pc - 1 := by bv_omega
    simp only [if_true, ← hwz]
    rfl

/-! ### Exchanges (R200, R203) -/

theorem exec_exDeHl (s : State) :
    exec .exDeHl s = .next (State.done { s with
      main := { s.main with d := s.main.h, e := s.main.l, h := s.main.d, l := s.main.e } } 0) := by
  have hexec : exec .exDeHl s = .next (((s.setDe s.hl).setHl s.de).complete 0) := rfl
  rw [hexec, State.hl, State.de, State.setDe_join, State.setHl_join]
  rfl

/-- R203: a word and the word on the stack change places, when `h` and `l` are the word's halves. -/
theorem State.exchangeStack_eq (s : State) {v : Word} {h l : Byte} (hh : hi v = h) (hl : lo v = l) :
    s.exchangeStack v = (join (s.peekNext s.sp) (s.peek s.sp), { s with
      mem := (s.mem.store s.regions (s.sp + 1) h).store s.regions s.sp l
      bus := .memWrite s.sp l :: .memWrite (s.sp + 1) h :: .memRead (s.sp + 1) (s.peekNext s.sp) ::
        .memRead s.sp (s.peek s.sp) :: s.bus }) := by
  subst hh hl
  rfl

theorem exec_exIndSpHl (s : State) :
    exec .exIndSpHl s = .next
      ((((s.exchangeStack s.hl).2.setHl (s.exchangeStack s.hl).1).setWz (s.exchangeStack s.hl).1).complete 15) := rfl

theorem exec_exIndSpXy (xy : IndexReg) (s : State) :
    exec (.exIndSpXy xy) s = .next ((((s.exchangeStack (s.xy xy)).2.setXy xy (s.exchangeStack (s.xy xy)).1).setWz
      (s.exchangeStack (s.xy xy)).1).complete 15) := rfl

/-! ### The obligations -/

/-- Settles O41: the four handlers are one transfer, in one of two directions, that may or may not repeat. -/
theorem blockTransfer : Obligations.BlockTransfer := by
  intro s p hp v n more again
  have hexec : exec p.1 s = (s.ldBlock p.2.1).finishRepeat (p.2.2 && decide ((s.ldBlock p.2.1).bc ≠ 0)) := by
    simp only [List.mem_cons, List.not_mem_nil, or_false] at hp
    obtain rfl | rfl | rfl | rfl := hp <;> rfl
  rw [State.ldBlock_more, State.finishRepeat_eq, State.ldBlock_eq, ldBlockFlags_eq] at hexec
  exact ⟨_, hexec, State.stores_one rfl, rfl⟩

/-- Settles O42: the four handlers are one comparison, in one of two directions, that may or may not repeat. -/
theorem blockSearch : Obligations.BlockSearch := by
  intro s p hp v r h n more again
  have hexec : exec p.1 s = (s.cpBlock p.2.1).2.finishRepeat
      (p.2.2 && (decide ((s.cpBlock p.2.1).2.bc ≠ 0) && decide ((s.cpBlock p.2.1).1 ≠ 0))) := by
    simp only [List.mem_cons, List.not_mem_nil, or_false] at hp
    obtain rfl | rfl | rfl | rfl := hp <;> rfl
  rw [State.cpBlock_more, State.cpBlock_differs, ← Bool.and_assoc, State.finishRepeat_eq, State.cpBlock_snd,
    cpBlockFlags_eq] at hexec
  exact hexec

/-- Settles O39: an exchange moves whole registers, so the second one moves each of them back. -/
theorem exchanges : Obligations.Exchanges := by
  refine fun s => ⟨exec_exDeHl s, rfl, rfl, fun i hi => ?_⟩
  simp only [List.mem_cons, List.not_mem_nil, or_false] at hi
  obtain rfl | rfl | rfl := hi
  · exact ⟨_, exec_exDeHl s, exec_exDeHl _⟩
  · exact ⟨_, rfl, rfl⟩
  · exact ⟨_, rfl, rfl⟩

/-- Settles O40: both exchanges are one operation on the stack, whose old word the pair and `WZ` take. -/
theorem exchangeWithStack : Obligations.ExchangeWithStack := by
  intro s xy v reads
  have hHl := exec_exIndSpHl s
  have hXy := exec_exIndSpXy xy s
  rw [s.exchangeStack_eq (v := s.hl) (hi_join s.main.h s.main.l) (lo_join s.main.h s.main.l)] at hHl
  rw [s.exchangeStack_eq rfl rfl] at hXy
  refine ⟨⟨_, hHl, State.stores_two rfl, rfl⟩, ?_⟩
  cases xy with
  | ix => exact ⟨_, hXy, State.stores_two rfl, rfl⟩
  | iy => exact ⟨_, hXy, State.stores_two rfl, rfl⟩

end Sys2Proof.Machine
end

section
/-! The 8-bit arithmetic and logic functions, and the instructions that apply them (43_alu8.md R230 to R248). -/

namespace Sys2Proof.Machine

/-! ### Results (R230, R231) -/

theorem carryByte_eq_ofNat (c : Bool) : carryByte c = BitVec.ofNat 8 c.toNat := by cases c <;> rfl

theorem add_carryByte (a b : Byte) (c : Bool) :
    a + b + carryByte c = BitVec.ofNat 8 (a.toNat + b.toNat + c.toNat) := by
  apply BitVec.eq_of_toNat_eq
  simp [carryByte_eq_ofNat]

theorem sub_sub_carryByte (a b : Byte) (c : Bool) :
    a - b - carryByte c = BitVec.ofInt 8 ((a.toNat : Int) - b.toNat - c.toNat) := by
  have hc := c.toNat_le
  apply BitVec.eq_of_toNat_eq
  simp only [carryByte_eq_ofNat, BitVec.toNat_sub, BitVec.toNat_ofNat, BitVec.toNat_ofInt]
  omega

/-! ### Signed overflow (R29, R230, R231) -/

/-- Bit 7 is the sign. -/
theorem and_0x80_ne_zero (v : Byte) : v &&& 0x80 ≠ 0 ↔ v.msb = true := by
  have hv : v &&& 0x80 = if v.msb then 0x80 else 0 := v.and_twoPow 7
  rw [hv]
  cases v.msb <;> decide

/-- The overflow formulas ask whether two pairs of bytes both differ in sign. -/
theorem signs_differ_iff (u v x y : Byte) :
    (u ^^^ v) &&& (x ^^^ y) &&& 0x80 ≠ 0 ↔
      ¬(128 ≤ u.toNat ↔ 128 ≤ v.toNat) ∧ ¬(128 ≤ x.toNat ↔ 128 ≤ y.toNat) := by
  rw [and_0x80_ne_zero, BitVec.msb_and, BitVec.msb_xor, BitVec.msb_xor]
  simp [BitVec.msb_eq_decide]

/-- A sum overflows when both operands differ in sign from the result. -/
theorem add8_overflow (a b : Byte) (c : Bool) :
    decide ((a ^^^ (a + b + carryByte c)) &&& (b ^^^ (a + b + carryByte c)) &&& 0x80 ≠ 0) =
      outside (a.toInt + b.toInt + c.toNat) (-128) 127 := by
  have hc := c.toNat_le
  rw [outside, ← Bool.decide_or, decide_eq_decide, signs_differ_iff, add_carryByte, BitVec.toNat_ofNat,
    BitVec.toInt_eq_toNat_cond, BitVec.toInt_eq_toNat_cond]
  omega

/-- A difference overflows when its operands differ in sign and the result has not the sign of the first. -/
theorem sub8_overflow (a b : Byte) (c : Bool) :
    decide ((a ^^^ b) &&& (a ^^^ (a - b - carryByte c)) &&& 0x80 ≠ 0) =
      outside (a.toInt - b.toInt - c.toNat) (-128) 127 := by
  have hc := c.toNat_le
  rw [outside, ← Bool.decide_or, decide_eq_decide, signs_differ_iff, sub_sub_carryByte, BitVec.toNat_ofInt,
    BitVec.toInt_eq_toNat_cond, BitVec.toInt_eq_toNat_cond]
  omega

/-! ### Flag bytes (R15, R29) -/

theorem or_flagIf_false (x mask : Byte) : x ||| flagIf false mask = x := BitVec.or_zero

theorem resultFlags_eq_sz53 (r : Byte) (h pv n c : Bool) :
    resultFlags r h pv n c = sz53 r ||| flagIf h 0x10 ||| flagIf pv 0x04 ||| flagIf n 0x02 ||| flagIf c 0x01 := by
  rw [resultFlags, flagByte, sz53]
  apply byte_ext <;> simp

/-- R29: `PV` as parity. -/
theorem resultFlags_evenParity (r : Byte) (h n c : Bool) :
    resultFlags r h (evenParity r) n c = sz53p r ||| flagIf h 0x10 ||| flagIf n 0x02 ||| flagIf c 0x01 := by
  rw [resultFlags_eq_sz53, sz53p, parity8_eq_evenParity]
  apply byte_ext <;> simp

/-- `C` alone taken from an old flag byte (R233). -/
theorem resultFlags_with_old_carry (r f : Byte) (h pv n c : Bool) :
    (resultFlags r h pv n c &&& 0xFE) ||| (f &&& 0x01) = resultFlags r h pv n (f.getLsbD 0) := by
  rw [resultFlags, resultFlags, flagByte, flagByte]
  apply byte_ext <;> simp

/-! ### Arithmetic (R230, R231) -/

/-- Settles O27: the formula for `PV` is the overflow of the exact sum; half and full carry compare exact sums as they stand. -/
theorem add8_eq : Obligations.Add8 := by
  intro a b c
  dsimp only
  rw [resultFlags_eq_sz53, ← add8_overflow, ← add_carryByte, ← toNat_and_low4, ← toNat_and_low4, or_flagIf_false]
  rfl

/-- Settles O28: the formula for `PV` is the overflow of the exact difference; both borrows are exact comparisons. -/
theorem sub8_eq : Obligations.Sub8 := by
  intro a b c
  dsimp only
  rw [resultFlags_eq_sz53, ← sub8_overflow, ← sub_sub_carryByte, ← toNat_and_low4, ← toNat_and_low4]
  rfl

/-! ### Logic, increment and decrement (R232, R233) -/

/-- R233: the half carry, tested on the low four bits. -/
theorem and_0x0F_eq_iff (v n : Byte) : v &&& 0x0F = n ↔ v.toNat % 16 = n.toNat := by
  rw [← BitVec.toNat_inj, toNat_and_low4]

theorem inc8_eq (v f : Byte) :
    inc8 v f = (v + 1, resultFlags (v + 1) (v.toNat % 16 = 15) (v = 0x7F) false (f.getLsbD 0)) := by
  simp only [inc8, and_0x0F_eq_iff, resultFlags_eq_sz53, sz53]
  refine congrArg (Prod.mk _) ?_
  apply byte_ext <;> simp

theorem dec8_eq (v f : Byte) :
    dec8 v f = (v - 1, resultFlags (v - 1) (v.toNat % 16 = 0) (v = 0x80) true (f.getLsbD 0)) := by
  simp only [dec8, and_0x0F_eq_iff, resultFlags_eq_sz53, sz53]
  refine congrArg (Prod.mk _) ?_
  apply byte_ext <;> simp

/-- Counting up overflows from 127 only. -/
theorem outside_add_one (v : Byte) : outside (v.toInt + 1) (-128) 127 = decide (v = 0x7F) := by
  have hlow := v.le_toInt
  have hhigh := v.toInt_lt
  have hv : v = 0x7F ↔ v.toInt = 127 := BitVec.toInt_inj.symm
  rw [outside, ← Bool.decide_or, decide_eq_decide, hv]
  omega

/-- Counting down overflows from -128 only. -/
theorem outside_sub_one (v : Byte) : outside (v.toInt - 1) (-128) 127 = decide (v = 0x80) := by
  have hlow := v.le_toInt
  have hhigh := v.toInt_lt
  have hv : v = 0x80 ↔ v.toInt = -128 := BitVec.toInt_inj.symm
  rw [outside, ← Bool.decide_or, decide_eq_decide, hv]
  omega

theorem add8_one (v : Byte) :
    add8 v 1 false = (v + 1, resultFlags (v + 1) (v.toNat % 16 = 15) (v = 0x7F) false (decide (255 < v.toNat + 1))) := by
  have hr : BitVec.ofNat 8 (v.toNat + 1) = v + 1 := (add_carryByte v 1 false).symm.trans (BitVec.add_zero _)
  have hh : 15 < v.toNat % 16 + 1 ↔ v.toNat % 16 = 15 := by omega
  have h := add8_eq v 1 false
  simpa [hr, hh, outside_add_one] using h

theorem sub8_one (v : Byte) :
    sub8 v 1 false = (v - 1, resultFlags (v - 1) (v.toNat % 16 = 0) (v = 0x80) true (decide (v.toNat < 1))) := by
  have hr : BitVec.ofInt 8 ((v.toNat : Int) - 1) = v - 1 := by
    simpa [carryByte, flagIf] using (sub_sub_carryByte v 1 false).symm
  have h := sub8_eq v 1 false
  simpa [hr, outside_sub_one] using h

/-- Settles O29: `PV` of a logic function is parity; counting is adding or subtracting 1, but for `C`, which is the old one. -/
theorem logicAndIncrement : Obligations.LogicAndIncrement := by
  refine ⟨fun a b => ⟨?and8, ?or8, ?xor8⟩, fun v f => ⟨inc8_eq v f, dec8_eq v f, ?inc8, ?dec8⟩⟩
  case and8 =>
    rw [resultFlags_evenParity, or_flagIf_false, or_flagIf_false]
    rfl
  case or8 =>
    rw [resultFlags_evenParity, or_flagIf_false, or_flagIf_false, or_flagIf_false]
    rfl
  case xor8 =>
    rw [resultFlags_evenParity, or_flagIf_false, or_flagIf_false, or_flagIf_false]
    rfl
  case inc8 => rw [add8_one, inc8_eq, resultFlags_with_old_carry]
  case dec8 => rw [sub8_one, dec8_eq, resultFlags_with_old_carry]

/-! ### The accumulator operations (R108, R234 to R242) -/

/-- Eight instructions in the order of R108, each with the function of its operation. -/
theorem eq_of_mem_zip_aluFunctions {α : Type} {add adc sub sbc and xor or cp : α}
    {p : α × (Byte → Byte → Byte → Byte × Byte)}
    (hp : p ∈ [add, adc, sub, sbc, and, xor, or, cp].zip aluFunctions) :
    p = (add, alu8 .add) ∨ p = (adc, alu8 .adc) ∨ p = (sub, alu8 .sub) ∨ p = (sbc, alu8 .sbc) ∨
      p = (and, alu8 .and) ∨ p = (xor, alu8 .xor) ∨ p = (or, alu8 .or) ∨ p = (cp, alu8 .cp) := by
  simp only [aluFunctions, List.zip_cons_cons, List.zip_nil_right, List.mem_cons, List.not_mem_nil, or_false] at hp
  exact hp

/-- Settles O43: in each operand form the eight handlers are one update of `A` and `F`, at one of the eight operations. -/
theorem accumulatorOperations : Obligations.AccumulatorOperations := by
  refine ⟨?register, ?immediate, ?memory, ?half, ?indexed⟩
  all_goals
    intro p hp
    obtain rfl | rfl | rfl | rfl | rfl | rfl | rfl | rfl := eq_of_mem_zip_aluFunctions hp
  all_goals intros; rfl

/-! ### Counting by one (R243 to R248) -/

/-- Settles O44: the two handlers of an operand form are one read-modify-write, with `inc8` or `dec8`. -/
theorem incrementAndDecrement : Obligations.IncrementAndDecrement := by
  refine ⟨?register, ?half, ?memory, ?indexed⟩
  all_goals
    intro p hp
    simp only [List.mem_cons, List.not_mem_nil, or_false] at hp
  case register =>
    obtain rfl | rfl := hp
    · exact fun _ _ => rfl
    · exact fun _ _ => rfl
  case half =>
    obtain rfl | rfl := hp
    · exact fun _ _ _ => rfl
    · exact fun _ _ _ => rfl
  case memory =>
    intro s v new
    have hexec : exec p.1 s = .next ((s.modifyAt p.2 s.hl).2.complete 7) := by
      obtain rfl | rfl := hp <;> rfl
    exact ⟨_, hexec, State.stores_one rfl, rfl⟩
  case indexed =>
    intro s xy d v new
    have hexec : exec (p.1 xy d) s = .next ((s.modifyIndexed p.2 xy d).2.complete 15) := by
      obtain rfl | rfl := hp <;> rfl
    exact ⟨_, hexec, State.stores_one rfl, rfl⟩

end Sys2Proof.Machine
end

section
/-! The general-purpose arithmetic and CPU control group (44_general_control.md R270 to R281). -/

namespace Sys2Proof.Machine

/-! ### Single flags of a flag byte (R28) -/

theorem resultFlags_halfCarry (r : Byte) (h pv n c : Bool) : (resultFlags r h pv n c).getLsbD 4 = h := by
  simp [resultFlags, flagByte]

theorem resultFlags_subtract (r : Byte) (h pv n c : Bool) : (resultFlags r h pv n c).getLsbD 1 = n := by
  simp [resultFlags, flagByte]

theorem resultFlags_carry (r : Byte) (h pv n c : Bool) : (resultFlags r h pv n c).getLsbD 0 = c := by
  simp [resultFlags, flagByte]

/-! ### `DAA` (R270) -/

/-- R270: what `DAA` adds to or subtracts from `A`: 6 corrects the low digit, 60h the high one. -/
def daaAdjust (a f : Byte) : Nat :=
  (if f.getLsbD 4 || decide (9 < a.toNat % 16) then 0x06 else 0) +
    if f.getLsbD 0 || decide (0x99 < a.toNat) then 0x60 else 0

theorem daa_corrections_eq_ofNat (low high : Bool) :
    flagIf low 0x06 ||| flagIf high 0x60 = BitVec.ofNat 8 ((if low then 0x06 else 0) + if high then 0x60 else 0) := by
  cases low <;> cases high <;> rfl

theorem sub_ofNat_eq_ofInt (a : Byte) (k : Nat) :
    a - BitVec.ofNat 8 k = BitVec.ofInt 8 ((a.toNat : Int) - k) := by
  apply BitVec.eq_of_toNat_eq
  simp only [BitVec.toNat_sub, BitVec.toNat_ofNat, BitVec.toNat_ofInt]
  omega

theorem daa8_eq (a f : Byte) :
    let r := if f.getLsbD 1 then BitVec.ofInt 8 ((a.toNat : Int) - daaAdjust a f)
      else BitVec.ofNat 8 (a.toNat + daaAdjust a f)
    let half := if f.getLsbD 1 then f.getLsbD 4 && decide (a.toNat % 16 < 6) else decide (9 < a.toNat % 16)
    daa8 a f =
      (r, resultFlags r half (evenParity r) (f.getLsbD 1) (f.getLsbD 0 || decide (0x99 < a.toNat))) := by
  dsimp only
  have hadd : a + BitVec.ofNat 8 (daaAdjust a f) = BitVec.ofNat 8 (a.toNat + daaAdjust a f) := by
    rw [BitVec.ofNat_add, BitVec.ofNat_toNat, BitVec.setWidth_eq]
  rw [resultFlags_evenParity, ← sub_ofNat_eq_ofInt, ← hadd, daaAdjust, ← daa_corrections_eq_ofNat, ← toNat_and_low4]
  rfl

theorem flagC_daa8 (a f : Byte) : flagC (daa8 a f).2 = (f.getLsbD 0 || decide (0x99 < a.toNat)) := by
  rw [daa8_eq, flagC, resultFlags_carry]

/-! ### Packed decimal digits (R270) -/

theorem toNat_bcd {x : Nat} (hx : x < 100) : (bcd x).toNat = 16 * (x / 10) + x % 10 := by
  rw [bcd, BitVec.toNat_ofNat]
  omega

theorem toNat_bcd_mod_sixteen {x : Nat} (hx : x < 100) : (bcd x).toNat % 16 = x % 10 := by
  rw [toNat_bcd hx]
  omega

/-! Below `p` is what an operation makes of the high digits, and `n` of the low digits with the carry. -/

/-- Where a digit carries the binary sum falls short of the decimal one: by 6 in the low digit, by 60h in the high one. -/
theorem bcd_add_digits {p n : Nat} (hp : p ≤ 18) (hn : n ≤ 19) :
    bcd ((10 * p + n) % 100) =
      BitVec.ofNat 8 (16 * p + n + ((if 10 ≤ n then 0x06 else 0) + if 100 ≤ 10 * p + n then 0x60 else 0)) := by
  have hunits : (10 * p + n) % 100 % 10 = if 10 ≤ n then n - 10 else n := by split <;> omega
  have htens : (10 * p + n) % 100 / 10 = (p + if 10 ≤ n then 1 else 0) - if 100 ≤ 10 * p + n then 10 else 0 := by
    split <;> split <;> omega
  apply BitVec.eq_of_toNat_eq
  rw [bcd, hunits, htens, BitVec.toNat_ofNat, BitVec.toNat_ofNat]
  split <;> split <;> omega

/-- Where a digit borrows the binary difference exceeds the decimal one: by 6 in the low digit, by 60h in the high one. -/
theorem bcd_sub_digits {p n : Int} (hp : -9 ≤ p ∧ p ≤ 9) (hn : -10 ≤ n ∧ n ≤ 9) :
    bcd ((10 * p + n) % 100).toNat =
      BitVec.ofInt 8 (16 * p + n - ((if n < 0 then 0x06 else 0) + if 10 * p + n < 0 then 0x60 else 0 : Nat)) := by
  have hunits : ((10 * p + n) % 100).toNat % 10 = (if n < 0 then n + 10 else n).toNat := by split <;> omega
  have htens : ((10 * p + n) % 100).toNat / 10 =
      ((p - if n < 0 then 1 else 0) + if 10 * p + n < 0 then 10 else 0).toNat := by
    split <;> split <;> omega
  apply BitVec.eq_of_toNat_eq
  rw [bcd, hunits, htens, BitVec.toNat_ofNat, BitVec.toNat_ofInt]
  split <;> split <;> omega

/-- After an addition a digit that carried shows in `H` or `C`, or is greater than 9. -/
theorem daa8_of_digit_sums {a f : Byte} {p n : Nat} (hp : p ≤ 18) (hn : n ≤ 19)
    (ha : a = BitVec.ofNat 8 (16 * p + n)) (hH : f.getLsbD 4 = decide (15 < n)) (hN : f.getLsbD 1 = false)
    (hC : f.getLsbD 0 = decide (255 < 16 * p + n)) :
    (daa8 a f).1 = bcd ((10 * p + n) % 100) ∧ flagC (daa8 a f).2 = decide (100 ≤ 10 * p + n) := by
  have hto : a.toNat = (16 * p + n) % 256 := by rw [ha, BitVec.toNat_ofNat]
  have hlow : (f.getLsbD 4 || decide (9 < a.toNat % 16)) = decide (10 ≤ n) := by
    rw [hH, hto, ← Bool.decide_or, decide_eq_decide]
    omega
  have hhigh : (f.getLsbD 0 || decide (0x99 < a.toNat)) = decide (100 ≤ 10 * p + n) := by
    rw [hC, hto, ← Bool.decide_or, decide_eq_decide]
    omega
  refine ⟨?_, by rw [flagC_daa8, hhigh]⟩
  rw [daa8_eq, hN, daaAdjust, hlow, hhigh, bcd_add_digits hp hn, BitVec.ofNat_add (16 * p + n), ← ha]
  simp [BitVec.ofNat_add]

/-- After a subtraction a digit that borrowed shows in `H` or `C`, and one that did not is at most 9. -/
theorem daa8_of_digit_differences {a f : Byte} {p n : Int} (hp : -9 ≤ p ∧ p ≤ 9) (hn : -10 ≤ n ∧ n ≤ 9)
    (ha : a = BitVec.ofInt 8 (16 * p + n)) (hH : f.getLsbD 4 = decide (n < 0)) (hN : f.getLsbD 1 = true)
    (hC : f.getLsbD 0 = decide (16 * p + n < 0)) :
    (daa8 a f).1 = bcd ((10 * p + n) % 100).toNat ∧ flagC (daa8 a f).2 = decide (10 * p + n < 0) := by
  have hto : (a.toNat : Int) = (16 * p + n) % 256 := by
    rw [ha, BitVec.toNat_ofInt]
    omega
  have hlow : (f.getLsbD 4 || decide (9 < a.toNat % 16)) = decide (n < 0) := by
    rw [hH, ← Bool.decide_or, decide_eq_decide]
    omega
  have hhigh : (f.getLsbD 0 || decide (0x99 < a.toNat)) = decide (10 * p + n < 0) := by
    rw [hC, ← Bool.decide_or, decide_eq_decide]
    omega
  refine ⟨?_, by rw [flagC_daa8, hhigh]⟩
  rw [daa8_eq, hN, daaAdjust, hlow, hhigh, bcd_sub_digits hp hn]
  apply BitVec.eq_of_toNat_eq
  simp only [if_true, decide_eq_true_eq, BitVec.toNat_ofInt, hto]
  congr 1
  omega

/-- Settles O30: the binary sum and difference by their digits; `DAA` corrects those that carried or borrowed. -/
theorem decimalAdjust : Obligations.DecimalAdjust := by
  intro x y c hx hy
  have hc := c.toNat_le
  refine ⟨?add, ?sub⟩
  case add =>
    obtain ⟨p, hp⟩ : ∃ p, p = x / 10 + y / 10 := ⟨_, rfl⟩
    obtain ⟨n, hn⟩ : ∃ n, n = x % 10 + y % 10 + c.toNat := ⟨_, rfl⟩
    have hdecimal : x + y + c.toNat = 10 * p + n := by omega
    have hbinary : (bcd x).toNat + (bcd y).toNat + c.toNat = 16 * p + n := by
      rw [toNat_bcd hx, toNat_bcd hy]
      omega
    rw [hdecimal]
    apply daa8_of_digit_sums
    case hp => omega
    case hn => omega
    case ha => rw [add8_eq, hbinary]
    case hH => rw [add8_eq, resultFlags_halfCarry, toNat_bcd_mod_sixteen hx, toNat_bcd_mod_sixteen hy, hn]
    case hN => rw [add8_eq, resultFlags_subtract]
    case hC => rw [add8_eq, resultFlags_carry, hbinary]
  case sub =>
    obtain ⟨p, hp⟩ : ∃ p : Int, p = (x / 10 : Nat) - (y / 10 : Nat) := ⟨_, rfl⟩
    obtain ⟨n, hn⟩ : ∃ n : Int, n = (x % 10 : Nat) - (y % 10 : Nat) - c.toNat := ⟨_, rfl⟩
    have hdecimal : (100 + x - y - c.toNat) % 100 = ((10 * p + n) % 100).toNat := by omega
    have hborrow : x < y + c.toNat ↔ 10 * p + n < 0 := by omega
    have hbinary : ((bcd x).toNat : Int) - (bcd y).toNat - c.toNat = 16 * p + n := by
      rw [toNat_bcd hx, toNat_bcd hy]
      omega
    have hbinaryBorrow : (bcd x).toNat < (bcd y).toNat + c.toNat ↔ 16 * p + n < 0 := by omega
    have hlowBorrow : x % 10 < y % 10 + c.toNat ↔ n < 0 := by omega
    rw [hdecimal, decide_eq_decide.2 hborrow]
    apply daa8_of_digit_differences
    case hp => omega
    case hn => omega
    case ha => rw [sub8_eq, hbinary]
    case hH => rw [sub8_eq, resultFlags_halfCarry, toNat_bcd_mod_sixteen hx, toNat_bcd_mod_sixteen hy,
        decide_eq_decide.2 hlowBorrow]
    case hN => rw [sub8_eq, resultFlags_subtract]
    case hC => rw [sub8_eq, resultFlags_carry, decide_eq_decide.2 hbinaryBorrow]

/-! ### The other functions of `A` and `F` (R271 to R274) -/

theorem cpl8_eq (a f : Byte) :
    cpl8 a f = (~~~a, flagByte (f.getLsbD 7) (f.getLsbD 6) (!a.getLsbD 5) true (!a.getLsbD 3) (f.getLsbD 2) true
      (f.getLsbD 0)) := by
  have hnot : a ^^^ 0xFF = ~~~a := BitVec.xor_allOnes
  rw [cpl8, hnot, flagByte]
  refine congrArg (Prod.mk _) ?_
  apply byte_ext <;> simp

/-- Negating overflows for -128 only. -/
theorem outside_neg (a : Byte) : outside (-a.toInt) (-128) 127 = decide (a = 0x80) := by
  have hlow := a.le_toInt
  have hhigh := a.toInt_lt
  have ha : a = 0x80 ↔ a.toInt = -128 := BitVec.toInt_inj.symm
  rw [outside, ← Bool.decide_or, decide_eq_decide, ha]
  omega

/-- R272: negating is subtracting from 0, which borrows but for 0 and overflows for -128. -/
theorem sub8_zero (a : Byte) :
    sub8 0 a false = (-a, resultFlags (-a) (a.toNat % 16 ≠ 0) (a = 0x80) true (a ≠ 0)) := by
  have hr : BitVec.ofInt 8 (-(a.toNat : Int)) = -a := by
    simpa [carryByte, flagIf] using (sub_sub_carryByte 0 a false).symm
  have hh : 0 < a.toNat % 16 ↔ a.toNat % 16 ≠ 0 := Nat.pos_iff_ne_zero
  have hc : 0 < a.toNat ↔ a ≠ 0 := by rw [Nat.pos_iff_ne_zero, ← BitVec.toNat_ne_iff_ne]; rfl
  have h := sub8_eq 0 a false
  simpa [hr, outside_neg, hh, hc] using h

theorem ccfFlags_eq (a f : Byte) :
    ccfFlags a f = flagByte (f.getLsbD 7) (f.getLsbD 6) (a.getLsbD 5) (f.getLsbD 0) (a.getLsbD 3) (f.getLsbD 2) false
      (!f.getLsbD 0) := by
  rw [ccfFlags, flagByte]
  apply byte_ext <;> simp [flagC]

theorem scfFlags_eq (a f : Byte) :
    scfFlags a f = flagByte (f.getLsbD 7) (f.getLsbD 6) (a.getLsbD 5) false (a.getLsbD 3) (f.getLsbD 2) false true := by
  rw [scfFlags, flagByte]
  apply byte_ext <;> simp

/-! ### The handlers (R270 to R274) -/

theorem exec_daa (s : State) : exec .daa s = .next ((s.setAF (daa8 s.main.a s.main.f)).done 0) := rfl

theorem exec_cpl (s : State) : exec .cpl s = .next ((s.setAF (cpl8 s.main.a s.main.f)).done 0) := rfl

theorem exec_neg (y : BitVec 3) (s : State) : exec (.neg y) s = .next ((s.setAF (sub8 0 s.main.a false)).done 0) := rfl

theorem exec_ccf (s : State) : exec .ccf s = .next ((s.setF (ccfFlags s.main.a s.main.f)).done 0) := rfl

theorem exec_scf (s : State) : exec .scf s = .next ((s.setF (scfFlags s.main.a s.main.f)).done 0) := rfl

/-- Settles O45: each handler applies one function to `A` and `F`. -/
theorem generalArithmetic : Obligations.GeneralArithmetic := by
  intro s y a f low high adjust r half
  refine ⟨?daa, ?cpl, ?neg, ?ccf, ?scf⟩
  case daa => rw [exec_daa, daa8_eq]; rfl
  case cpl => rw [exec_cpl, cpl8_eq]; rfl
  case neg => rw [exec_neg, sub8_zero]; rfl
  case ccf => rw [exec_ccf, ccfFlags_eq]; rfl
  case scf => rw [exec_scf, scfFlags_eq]; rfl

/-! ### CPU control (R275 to R281) -/

/-- R279: `EI` sets the block whatever it was. -/
theorem exec_ei (s : State) :
    exec .ei s = .next (State.done { s with iff1 := true, iff2 := true, intBlocked := true } 0) := by
  have hexec : exec .ei s =
      .next (State.done { s with iff1 := true, iff2 := true, intBlocked := s.intBlocked || true } 0) := rfl
  rw [hexec, Bool.or_true]

/-- Settles O46: each handler but that of `EI` is its record update as it stands. -/
theorem cpuControl : Obligations.CpuControl := fun s _ _ _ => ⟨rfl, rfl, rfl, rfl, exec_ei s, rfl, rfl, rfl⟩

end Sys2Proof.Machine
end

section
/-! The 16-bit arithmetic group (45_alu16.md R300 to R307). -/

namespace Sys2Proof.Machine

/-! ### Words: halves, sums and differences (R8) -/

theorem getElem_hi (v : Word) (i : Nat) (h : i < 8) : (hi v)[i] = v[8 + i] := by
  rw [hi, BitVec.getElem_extractLsb', ← BitVec.getLsbD_eq_getElem]

theorem toNat_and_low12 (v : Word) : (v &&& 0x0FFF).toNat = v.toNat % 0x1000 := by
  rw [BitVec.toNat_and]
  exact Nat.and_two_pow_sub_one_eq_mod v.toNat 12

/-- A carry as a word. -/
theorem join_carryByte_eq_ofNat (c : Bool) : join 0 (carryByte c) = BitVec.ofNat 16 c.toNat := by cases c <;> rfl

theorem add_carryWord (a b : Word) (c : Bool) :
    a + b + join 0 (carryByte c) = BitVec.ofNat 16 (a.toNat + b.toNat + c.toNat) := by
  rw [join_carryByte_eq_ofNat]
  apply BitVec.eq_of_toNat_eq
  simp

theorem sub_sub_carryWord (a b : Word) (c : Bool) :
    a - b - join 0 (carryByte c) = BitVec.ofInt 16 ((a.toNat : Int) - b.toNat - c.toNat) := by
  have hc := c.toNat_le
  apply BitVec.eq_of_toNat_eq
  simp only [join_carryByte_eq_ofNat, BitVec.toNat_sub, BitVec.toNat_ofNat, BitVec.toNat_ofInt]
  omega

/-! ### Signed overflow (R29, R301, R302) -/

/-- The overflow formulas ask whether two pairs of words both differ in sign, which is bit 15. -/
theorem word_signs_differ_iff (u v x y : Word) :
    (u ^^^ v) &&& (x ^^^ y) &&& 0x8000 ≠ 0 ↔
      ¬(0x8000 ≤ u.toNat ↔ 0x8000 ≤ v.toNat) ∧ ¬(0x8000 ≤ x.toNat ↔ 0x8000 ≤ y.toNat) := by
  have hsign (w : Word) : w &&& 0x8000 ≠ 0 ↔ w.msb = true := by
    have hw : w &&& 0x8000 = if w.msb then 0x8000 else 0 := w.and_twoPow 15
    rw [hw]
    cases w.msb <;> decide
  rw [hsign, BitVec.msb_and, BitVec.msb_xor, BitVec.msb_xor]
  simp [BitVec.msb_eq_decide]

/-- A sum overflows when both operands differ in sign from the result. -/
theorem adc16_overflow (a b : Word) (c : Bool) :
    decide ((a ^^^ (a + b + join 0 (carryByte c))) &&& (b ^^^ (a + b + join 0 (carryByte c))) &&& 0x8000 ≠ 0) =
      outside (a.toInt + b.toInt + c.toNat) (-32768) 32767 := by
  have hc := c.toNat_le
  rw [outside, ← Bool.decide_or, decide_eq_decide, word_signs_differ_iff, add_carryWord, BitVec.toNat_ofNat,
    BitVec.toInt_eq_toNat_cond, BitVec.toInt_eq_toNat_cond]
  omega

/-- A difference overflows when its operands differ in sign and the result has not the sign of the first. -/
theorem sbc16_overflow (a b : Word) (c : Bool) :
    decide ((a ^^^ b) &&& (a ^^^ (a - b - join 0 (carryByte c))) &&& 0x8000 ≠ 0) =
      outside (a.toInt - b.toInt - c.toNat) (-32768) 32767 := by
  have hc := c.toNat_le
  rw [outside, ← Bool.decide_or, decide_eq_decide, word_signs_differ_iff, sub_sub_carryWord, BitVec.toNat_ofInt,
    BitVec.toInt_eq_toNat_cond, BitVec.toInt_eq_toNat_cond]
  omega

/-! ### The functions (R300 to R302) -/

/-- `S`, `F5` and `F3` are bits of the high byte, `Z` is of the whole word (R301, R302). -/
theorem flagByte_of_word (r : Word) (h pv n c : Bool) :
    flagByte (r.getLsbD 15) (r = 0) (r.getLsbD 13) h (r.getLsbD 11) pv n c =
      (hi r &&& 0xA8) ||| flagIf (r = 0) 0x40 ||| flagIf n 0x02 ||| flagIf h 0x10 ||| flagIf pv 0x04 |||
        flagIf c 0x01 := by
  rw [flagByte]
  apply byte_ext <;> simp [getElem_hi]

/-- R300: `S`, `Z` and `PV` are those of the old flag byte `f`. -/
theorem add16_eq (a b : Word) (f : Byte) :
    let r := BitVec.ofNat 16 (a.toNat + b.toNat)
    add16 a b f = (a + b, flagByte (f.getLsbD 7) (f.getLsbD 6) (r.getLsbD 13)
      (decide (0x0FFF < a.toNat % 0x1000 + b.toNat % 0x1000)) (r.getLsbD 11) (f.getLsbD 2) false
      (decide (0xFFFF < a.toNat + b.toNat))) := by
  have hr : BitVec.ofNat 16 (a.toNat + b.toNat) = a + b := by simp [BitVec.ofNat_add]
  simp only [add16, toNat_and_low12, hr]
  refine congrArg (Prod.mk _) ?_
  generalize a + b = r
  rw [flagByte]
  apply byte_ext <;> simp [getElem_hi]

theorem adc16_eq (a b : Word) (c : Bool) :
    let r := BitVec.ofNat 16 (a.toNat + b.toNat + c.toNat)
    adc16 a b c = (r, flagByte (r.getLsbD 15) (r = 0) (r.getLsbD 13)
      (decide (0x0FFF < a.toNat % 0x1000 + b.toNat % 0x1000 + c.toNat)) (r.getLsbD 11)
      (outside (a.toInt + b.toInt + c.toNat) (-32768) 32767) false (decide (0xFFFF < a.toNat + b.toNat + c.toNat))) := by
  dsimp only
  rw [flagByte_of_word, ← adc16_overflow, ← add_carryWord, ← toNat_and_low12, ← toNat_and_low12, or_flagIf_false]
  rfl

theorem sbc16_eq (a b : Word) (c : Bool) :
    let r := BitVec.ofInt 16 ((a.toNat : Int) - b.toNat - c.toNat)
    sbc16 a b c = (r, flagByte (r.getLsbD 15) (r = 0) (r.getLsbD 13)
      (decide (a.toNat % 0x1000 < b.toNat % 0x1000 + c.toNat)) (r.getLsbD 11)
      (outside (a.toInt - b.toInt - c.toNat) (-32768) 32767) true (decide (a.toNat < b.toNat + c.toNat))) := by
  dsimp only
  rw [flagByte_of_word, ← sbc16_overflow, ← sub_sub_carryWord, ← toNat_and_low12, ← toNat_and_low12]
  rfl

/-! ### The handlers (R300 to R303) -/

theorem exec_addHlSs (ss : Pair) (s : State) :
    exec (.addHlSs ss) s = .next ((((s.setWz (s.hl + 1)).setF (add16 s.hl (s.pair ss) s.main.f).2).setHl
      (add16 s.hl (s.pair ss) s.main.f).1).done 7) := rfl

theorem exec_adcHlSs (ss : Pair) (s : State) :
    exec (.adcHlSs ss) s = .next ((((s.setWz (s.hl + 1)).setF (adc16 s.hl (s.pair ss) (s.main.f.getLsbD 0)).2).setHl
      (adc16 s.hl (s.pair ss) (s.main.f.getLsbD 0)).1).done 7) := rfl

theorem exec_sbcHlSs (ss : Pair) (s : State) :
    exec (.sbcHlSs ss) s = .next ((((s.setWz (s.hl + 1)).setF (sbc16 s.hl (s.pair ss) (s.main.f.getLsbD 0)).2).setHl
      (sbc16 s.hl (s.pair ss) (s.main.f.getLsbD 0)).1).done 7) := rfl

theorem State.setXy_setF (s : State) (xy : IndexReg) (v : Word) (f : Byte) :
    (s.setF f).setXy xy v = (s.setXy xy v).setF f := by cases xy <;> rfl

/-- R303: neither `F` nor `WZ` is an index register, so the three assignments commute. -/
theorem exec_addXyPp (xy : IndexReg) (pp : IndexedPair) (s : State) :
    exec (.addXyPp xy pp) s = .next
      ((((s.setXy xy (add16 (s.xy xy) (s.indexedPair xy pp) s.main.f).1).setWz (s.xy xy + 1)).setF
        (add16 (s.xy xy) (s.indexedPair xy pp) s.main.f).2).done 7) := by
  rw [← State.setXy_setWz, ← State.setXy_setF]
  rfl

/-! ### The obligations -/

/-- Settles O48: `adc16` and `sbc16` are the exact sum and difference; the handlers write them to `HL` and `F`. -/
theorem addAndSubtractCarry16 : Obligations.AddAndSubtractCarry16 := by
  intro s ss a b c sum diff
  refine ⟨?adc, ?sbc⟩
  case adc => rw [exec_adcHlSs, adc16_eq]; rfl
  case sbc => rw [exec_sbcHlSs, sbc16_eq]; rfl

/-- Settles O47: `add16` is the exact sum with three old flags; counting is one assignment to a pair, and `F` is in none. -/
theorem addAndCount16 : Obligations.AddAndCount16 := by
  intro s ss xy pp flags
  refine ⟨?addHl, ?addXy, rfl, rfl, rfl, rfl, fun v => ⟨s.setPair_main_f ss v, s.pair_setPair ss v⟩⟩
  case addHl => rw [exec_addHlSs, add16_eq]; rfl
  case addXy => rw [exec_addXyPp, add16_eq, State.setF, State.setWz_main, State.setXy_main]; rfl

end Sys2Proof.Machine
end

section
/-! The functions of the rotate and shift group: results as rotations and as numbers, and flags (46_rotate_shift.md R320 to R324,
R334, R335). -/

namespace Sys2Proof.Machine

/-! ### Rotations (R324) -/

/-- The bit that leaves at the top enters at the bottom. -/
theorem rot8_rlc (v : Byte) (c : Bool) : rot8 .rlc v c = (v.rotateLeft 1, v.getLsbD 7) := by
  refine congrArg (·, v.getLsbD 7) ?_
  apply byte_ext <;> simp [BitVec.getElem_rotateLeft]

/-- The bit that leaves at the bottom enters at the top. -/
theorem rot8_rrc (v : Byte) (c : Bool) : rot8 .rrc v c = (v.rotateRight 1, v.getLsbD 0) := by
  refine congrArg (·, v.getLsbD 0) ?_
  apply byte_ext <;> simp [BitVec.getElem_rotateRight]

/-! ### Digits side by side (R324, R334, R335) -/

/-- A number below `2 ^ i` in the low bits and a multiple of `2 ^ i` above them have no bit in common. -/
theorem or_eq_ofNat_add {x y : Byte} {i high low : Nat} (hx : x.toNat = 2 ^ i * high) (hy : y.toNat = low)
    (hlow : low < 2 ^ i) : x ||| y = BitVec.ofNat 8 (high * 2 ^ i + low) := by
  have hor : (x ||| y).toNat = high * 2 ^ i + low := by
    rw [BitVec.toNat_or, hx, hy, ← Nat.two_pow_add_eq_or_of_lt hlow, Nat.mul_comm]
  rw [← hor, BitVec.ofNat_toNat, BitVec.setWidth_eq]

theorem toNat_shiftLeft_4 (v : Byte) : (v <<< 4).toNat = 16 * (v.toNat % 16) := by
  rw [BitVec.toNat_shiftLeft, Nat.shiftLeft_eq]
  omega

theorem toNat_ushiftRight_4 (v : Byte) : (v >>> 4).toNat = v.toNat / 16 := by
  rw [BitVec.toNat_ushiftRight, Nat.shiftRight_eq_div_pow]

theorem toNat_and_high4 (v : Byte) : (v &&& 0xF0).toNat = 16 * (v.toNat / 16) := by
  have hv : v &&& (0xF0 : Byte) = (v >>> 4) <<< 4 := by apply byte_ext <;> simp
  have hlt := v.isLt
  rw [hv, toNat_shiftLeft_4, toNat_ushiftRight_4]
  omega

/-! ### Doubling and halving (R324) -/

/-- Doubling, with `c` entering at the bottom. -/
theorem shiftLeft_or_flagIf (v : Byte) (c : Bool) :
    v <<< 1 ||| flagIf c 0x01 = BitVec.ofNat 8 (2 * v.toNat + c.toNat) := by
  have hshift : (v <<< 1).toNat = 2 ^ 1 * (v.toNat % 128) := by
    rw [BitVec.toNat_shiftLeft, Nat.shiftLeft_eq]
    omega
  have hbit : (flagIf c 0x01).toNat = c.toNat := by cases c <;> rfl
  rw [or_eq_ofNat_add hshift hbit c.toNat_lt]
  apply BitVec.eq_of_toNat_eq
  rw [BitVec.toNat_ofNat, BitVec.toNat_ofNat]
  omega

/-- Halving, with `c` entering at the top. -/
theorem ushiftRight_or_flagIf (v : Byte) (c : Bool) :
    v >>> 1 ||| flagIf c 0x80 = BitVec.ofNat 8 (v.toNat / 2 + 128 * c.toNat) := by
  have hbit : (flagIf c 0x80).toNat = 2 ^ 7 * c.toNat := by cases c <;> rfl
  have hshift : (v >>> 1).toNat = v.toNat / 2 := by rw [BitVec.toNat_ushiftRight, Nat.shiftRight_eq_div_pow]
  have hlow : v.toNat / 2 < 2 ^ 7 := by have := v.isLt; omega
  rw [BitVec.or_comm, or_eq_ofNat_add hbit hshift hlow, Nat.add_comm, Nat.mul_comm]
  rfl

/-- Keeping bit 7 halves the signed number, rounding down. -/
theorem ushiftRight_or_sign (v : Byte) : v >>> 1 ||| (v &&& 0x80) = BitVec.ofInt 8 (v.toInt / 2) := by
  have hshift : v >>> 1 ||| (v &&& 0x80) = v.sshiftRight 1 := by
    apply byte_ext <;> simp [BitVec.getElem_sshiftRight, BitVec.msb_eq_getLsbD_last]
  rw [hshift, BitVec.sshiftRight, Int.shiftRight_eq_div_pow]
  rfl

/-! ### Flags (R320 to R324) -/

theorem rotFlags_eq (op : RotOp) (v f : Byte) :
    let rc := rot8 op v (f.getLsbD 0)
    rotFlags op v f = (rc.1, resultFlags rc.1 false (evenParity rc.1) false rc.2) := by
  dsimp only
  rw [resultFlags_evenParity, or_flagIf_false, or_flagIf_false]
  rfl

/-- R320 to R323: the accumulator rotates keep `S`, `Z` and `PV`. -/
theorem rotAFlags_eq (op : RotOp) (a f : Byte) :
    let rc := rot8 op a (f.getLsbD 0)
    rotAFlags op a f = (rc.1, flagByte (f.getLsbD 7) (f.getLsbD 6) (rc.1.getLsbD 5) false (rc.1.getLsbD 3)
      (f.getLsbD 2) false rc.2) := by
  simp only [rotAFlags, flagC, flagByte, carryByte]
  refine congrArg (Prod.mk _) ?_
  apply byte_ext <;> simp

/-- Settles O31: a shift left doubles, a shift right halves, the entering bit added; the flags come from the result and the carry. -/
theorem rotateAndShift : Obligations.RotateAndShift := by
  intro v f c
  refine ⟨rot8_rlc v c, rot8_rrc v c, ?rl, ?rr, ?sla, ?sra, ?sll, ?srl, fun op => rotFlags_eq op v f⟩
  case rl => exact congrArg (·, v.getLsbD 7) (shiftLeft_or_flagIf v c)
  case rr => exact congrArg (·, v.getLsbD 0) (ushiftRight_or_flagIf v c)
  case sla => exact congrArg (·, v.getLsbD 7) ((or_flagIf_false ..).symm.trans (shiftLeft_or_flagIf v false))
  case sra => exact congrArg (·, v.getLsbD 0) (ushiftRight_or_sign v)
  case sll => exact congrArg (·, v.getLsbD 7) (shiftLeft_or_flagIf v true)
  case srl => exact congrArg (·, v.getLsbD 0) ((or_flagIf_false ..).symm.trans (ushiftRight_or_flagIf v false))

end Sys2Proof.Machine
end

section
/-! The instructions of the rotate and shift group (46_rotate_shift.md R320 to R335). -/

namespace Sys2Proof.Machine

/-! ### The eight bit-table operations (R109, R325 to R333) -/

/-- Eight instructions in the order of R109, each with its operation. -/
theorem eq_of_mem_zip_rotOps {α : Type} {rlc rrc rl rr sla sra sll srl : α} {p : α × RotOp}
    (hp : p ∈ [rlc, rrc, rl, rr, sla, sra, sll, srl].zip rotOps) :
    p = (rlc, .rlc) ∨ p = (rrc, .rrc) ∨ p = (rl, .rl) ∨ p = (rr, .rr) ∨
      p = (sla, .sla) ∨ p = (sra, .sra) ∨ p = (sll, .sll) ∨ p = (srl, .srl) := by
  simp only [rotOps, List.zip_cons_cons, List.zip_nil_right, List.mem_cons, List.not_mem_nil, or_false] at hp
  exact hp

/-- A copy of the result goes to a register, and no register of R104 is `F`, `WZ` or in memory. -/
theorem State.setReg_modifyIndexed (s : State) (g : Byte → Byte → Byte × Byte) (xy : IndexReg) (d : Byte) (r : Reg8)
    (v : Byte) :
    (s.modifyIndexed g xy d).2.setReg r v =
      { (s.setF (g (s.peek (s.ea xy d)) s.main.f).2).setReg r v with
        mem := (s.modifyIndexed g xy d).2.mem, wz := s.ea xy d
        bus := (s.modifyIndexed g xy d).2.bus } := by
  cases r <;> rfl

/-- Settles O49: each accumulator rotate is one update of `A` and `F`, each of the eight operations one update of `r` and `F`. -/
theorem rotateRegister : Obligations.RotateRegister := by
  refine ⟨?accumulator, ?register⟩
  case accumulator =>
    intro p hp s f rc
    have hexec : exec p.1 s = .next ((s.setAF (rotAFlags p.2 s.main.a s.main.f)).done 0) := by
      simp only [List.mem_cons, List.not_mem_nil, or_false] at hp
      obtain rfl | rfl | rfl | rfl := hp <;> rfl
    rw [hexec, rotAFlags_eq]
    rfl
  case register =>
    intro p hp s r
    obtain rfl | rfl | rfl | rfl | rfl | rfl | rfl | rfl := eq_of_mem_zip_rotOps hp <;> rfl

/-- Settles O50: in each operand form the eight handlers are one read-modify-write, at one of the eight operations. -/
theorem rotateMemory : Obligations.RotateMemory := by
  refine ⟨?memory, ?indexed, ?copied⟩
  case memory =>
    intro p hp s new
    have hexec : exec p.1 s = .next ((s.modifyAt (rotFlags p.2) s.hl).2.complete 7) := by
      obtain rfl | rfl | rfl | rfl | rfl | rfl | rfl | rfl := eq_of_mem_zip_rotOps hp <;> rfl
    exact ⟨_, hexec, State.stores_one rfl, rfl⟩
  case indexed =>
    intro p hp s xy d a new
    have hexec : exec (p.1 xy d) s = .next ((s.modifyIndexed (rotFlags p.2) xy d).2.complete 15) := by
      obtain rfl | rfl | rfl | rfl | rfl | rfl | rfl | rfl := eq_of_mem_zip_rotOps hp <;> rfl
    exact ⟨_, hexec, State.stores_one rfl, rfl⟩
  case copied =>
    intro p hp s xy d r a new
    have hexec : exec (p.1 xy d r) s =
        .next (((s.modifyIndexed (rotFlags p.2) xy d).2.setReg r new.1).complete 15) := by
      obtain rfl | rfl | rfl | rfl | rfl | rfl | rfl | rfl := eq_of_mem_zip_rotOps hp <;> rfl
    rw [State.setReg_modifyIndexed] at hexec
    exact ⟨_, hexec, State.stores_one rfl, rfl⟩

/-! ### The digit rotates (R334, R335) -/

/-- The byte stored at `HL` and the whole next state, when `m` is the new byte there and `v` the new accumulator. -/
theorem State.complete_digitRotate (s : State) {mem acc : Byte → Byte → Byte} {m v : Byte}
    (hm : mem (s.peek s.hl) s.main.a = m) (hv : acc (s.peek s.hl) s.main.a = v) (k : Nat) :
    s.stores ((s.digitRotate mem acc).complete k) [(s.hl, m)] ∧
      (s.digitRotate mem acc).complete k = State.done { s with
        main := { s.main with a := v, f := resultFlags v false (evenParity v) false (s.main.f.getLsbD 0) }
        wz := s.hl + 1, mem := ((s.digitRotate mem acc).complete k).mem
        bus := .memWrite s.hl m :: .memRead s.hl (s.peek s.hl) :: s.bus } k := by
  subst hm hv
  refine ⟨State.stores_one rfl, ?_⟩
  rw [← byteFlags_eq]
  rfl

/-- Settles O51: a shift by four bits moves a digit, so each new byte is two digits side by side. -/
theorem digitRotates : Obligations.DigitRotates := by
  intro s v a after
  have hlow (u : Byte) : u.toNat % 16 < 2 ^ 4 := Nat.mod_lt _ (by decide)
  have hhigh : v.toNat / 16 < 2 ^ 4 := by have := v.isLt; omega
  refine ⟨⟨_, rfl, s.complete_digitRotate ?rldMem ?rldAcc 10⟩, ⟨_, rfl, s.complete_digitRotate ?rrdMem ?rrdAcc 10⟩⟩
  case rldMem => exact or_eq_ofNat_add (toNat_shiftLeft_4 v) (toNat_and_low4 a) (hlow a)
  case rldAcc => exact or_eq_ofNat_add (toNat_and_high4 a) (toNat_ushiftRight_4 v) hhigh
  case rrdMem => exact or_eq_ofNat_add (toNat_shiftLeft_4 a) (toNat_ushiftRight_4 v) hhigh
  case rrdAcc => exact or_eq_ofNat_add (toNat_and_high4 a) (toNat_and_low4 v) (hlow v)

end Sys2Proof.Machine
end

section
/-! The bit test, set and reset group (47_bit.md R360 to R369). -/

namespace Sys2Proof.Machine

/-! ### The mask of a bit (R360) -/

theorem bitMask_eq_ofNat (b : BitVec 3) : bitMask b = BitVec.ofNat 8 (2 ^ b.toNat) := by
  apply BitVec.eq_of_toNat_eq
  simp [bitMask, Nat.shiftLeft_eq]

/-- The mask takes one bit out of a byte. -/
theorem and_bitMask_eq_zero (v : Byte) (b : BitVec 3) : v &&& bitMask b = 0 ↔ v.getLsbD b.toNat = false := by
  have hmask : v &&& bitMask b = if v.getLsbD b.toNat then bitMask b else 0 := v.and_twoPow b.toNat
  have hne : bitMask b ≠ 0 := by cases b using field3_cases <;> decide
  rw [hmask]
  cases v.getLsbD b.toNat with
  | false => exact iff_of_true rfl rfl
  | true => exact iff_of_false hne nofun

/-- R360: `Z` and `PV` tell that the bit is 0, `S` that bit 7 was tested and is 1; `C` is kept. -/
theorem bitFlags_eq (v : Byte) (b : BitVec 3) (x f : Byte) :
    bitFlags v b x f = flagByte (decide (b = 7) && v.getLsbD b.toNat) (!v.getLsbD b.toNat) (x.getLsbD 5) true
      (x.getLsbD 3) (!v.getLsbD b.toNat) false (f.getLsbD 0) := by
  rw [bitFlags, flagByte]
  simp only [ne_eq, and_bitMask_eq_zero]
  generalize v.getLsbD b.toNat = bit
  apply byte_ext <;> simp

/-- Settles O52: the three forms differ in where the byte tested and `F5`, `F3` come from. -/
theorem bitTest : Obligations.BitTest := by
  unfold Obligations.BitTest
  simp only [← bitFlags_eq]
  exact fun s b z r xy d => ⟨rfl, rfl, rfl⟩

/-! ### Setting and resetting a bit (R364 to R369) -/

/-- A read-modify-write that keeps `F`, in a register. -/
theorem State.modifyReg_keepsF (s : State) (new : Byte → Byte) (r : Reg8) :
    s.modifyReg (fun v f => (new v, f)) r = s.setReg r (new (s.reg r)) := by cases r <;> rfl

/-- Settles O53: in each operand form the two instructions are one read-modify-write that keeps `F`. -/
theorem setAndResetBit : Obligations.SetAndResetBit := by
  intro s b r xy d
  rw [← bitMask_eq_ofNat]
  intro mask after set res a
  have copied (new : Byte → Byte) : after new a a (s.setReg r (new (s.peek a))) 15
      (((s.modifyIndexed (fun v f => (new v, f)) xy d).2.setReg r (new (s.peek a))).done 15) := by
    rw [State.setReg_modifyIndexed]
    exact ⟨State.stores_one rfl, rfl⟩
  refine ⟨?setR, ?resR, ?setIndHl, ?resIndHl, ?setIndXy, ?resIndXy, ?setIndXyR, ?resIndXyR⟩
  case setR => rw [← s.modifyReg_keepsF]; rfl
  case resR => rw [← s.modifyReg_keepsF]; rfl
  case setIndHl | resIndHl | setIndXy | resIndXy => exact ⟨_, rfl, State.stores_one rfl, rfl⟩
  case setIndXyR => exact ⟨_, rfl, copied set⟩
  case resIndXyR => exact ⟨_, rfl, copied res⟩

end Sys2Proof.Machine
end

section
/-! Calls and returns (48_jump_call_return.md R388 to R394). -/

namespace Sys2Proof.Machine

/-! ### Calls (R388, R389, R394) -/

/-- A call from the handler's state: the address of the next instruction is pushed, high byte first (R12, R388). -/
theorem State.call_eq (s : State) (v : Word) :
    s.call v = { s with
      sp := s.sp - 2, pc := v
      mem := (s.mem.store s.regions (s.sp - 1) (hi s.pc)).store s.regions (s.sp - 2) (lo s.pc)
      bus := .memWrite (s.sp - 2) (lo s.pc) :: .memWrite (s.sp - 1) (hi s.pc) :: s.bus } := by
  rw [← sub_one_sub_one]
  rfl

theorem rstTarget_eq (p : BitVec 3) : rstTarget p = BitVec.ofNat 16 (8 * p.toNat) := by
  cases p using field3_cases <;> rfl

theorem exec_callCcNn (cc : Cond) (nn : Word) (s : State) :
    exec (.callCcNn cc nn) s =
      if condHolds cc s.main.f then exec (.callNn nn) s else .next ((s.setWz nn).done 6) := rfl

/-- Settles O55: all three are one push of `PC` with another target and charge. -/
theorem calls : Obligations.Calls := by
  intro s cc nn p after
  have called (target : Word) (charged : Nat) :
      after target target charged (((s.call target).setWz target).done charged) := by
    rw [State.call_eq]
    exact ⟨State.stores_two rfl, rfl⟩
  refine ⟨⟨_, rfl, called nn 13⟩, ?callCc, ?rst⟩
  case callCc =>
    rw [exec_callCcNn]
    split
    · exact ⟨_, rfl, called nn 13⟩
    · exact ⟨_, rfl, rfl⟩
  case rst =>
    rw [← rstTarget_eq]
    exact ⟨_, rfl, called (rstTarget p) 7⟩

/-! ### Returns (R390 to R393, R455) -/

theorem State.ret_eq (s : State) :
    s.ret = { s with
      sp := s.sp + 2, pc := join (s.peekNext s.sp) (s.peek s.sp), wz := join (s.peekNext s.sp) (s.peek s.sp)
      bus := .memRead (s.sp + 1) (s.peekNext s.sp) :: .memRead s.sp (s.peek s.sp) :: s.bus } := by
  rw [← add_one_add_one]
  rfl

theorem exec_retCc (cc : Cond) (s : State) :
    exec (.retCc cc) s = if condHolds cc s.main.f then .next (s.ret.done 7) else .next (s.done 1) := rfl

/-- Settles O56: every return is one pop into `PC` and `WZ`; `RETI` and `RETN` then copy `IFF2`. -/
theorem returns : Obligations.Returns := by
  intro s cc y target back
  have hret : s.ret = back := s.ret_eq
  refine ⟨?ret, ?retCc, ?reti, ?retn⟩
  case ret => rw [← hret]; rfl
  case retCc =>
    rw [exec_retCc, hret]
    split <;> rfl
  case reti => rw [← hret]; rfl
  case retn => rw [← hret]; rfl

end Sys2Proof.Machine
end

section
/-! Block inputs and outputs (49_io.md R416 to R424). -/

namespace Sys2Proof.Machine

/-! ### Flags of one element (R416) -/

theorem ofNat_and_low3 (k : Nat) : BitVec.ofNat 8 k &&& 0x07 = BitVec.ofNat 8 (k % 8) := by
  apply BitVec.eq_of_toNat_eq
  have hand : (BitVec.ofNat 8 k &&& 0x07).toNat = k % 256 % 8 := by
    rw [BitVec.toNat_and]
    exact Nat.and_two_pow_sub_one_eq_mod _ 3
  rw [hand, BitVec.toNat_ofNat]
  omega

/-- R416: `H` and `C` tell that `k` exceeds a byte, `PV` is a parity, `N` is bit 7 of the byte transferred. -/
theorem blockIoFlags_eq (t : Byte) (k : Nat) (b : Byte) :
    blockIoFlags t k b = resultFlags b (decide (255 < k)) (evenParity (BitVec.ofNat 8 (k % 8) ^^^ b)) (t.getLsbD 7)
      (decide (255 < k)) := by
  rw [resultFlags_eq_sz53, blockIoFlags, ofNat_and_low3, parity8_eq_evenParity]
  generalize evenParity _ = pv
  apply byte_ext <;> simp

/-! ### One element (R417, R419, R421, R423) -/

theorem State.inBlock_eq (s : State) (dir : Word) :
    s.inBlock dir = { s with
      main := { s.main with
        b := s.main.b - 1, h := hi (s.hl + dir), l := lo (s.hl + dir)
        f := blockIoFlags (s.portAnswer s.bc) ((s.portAnswer s.bc).toNat + (s.main.c + lo dir).toNat) (s.main.b - 1) }
      wz := s.bc + dir
      portAnswers := s.portAnswers.tail
      portReads := s.portReads + 1
      mem := s.mem.store s.regions s.hl (s.portAnswer s.bc)
      bus := .memWrite s.hl (s.portAnswer s.bc) :: .portRead s.bc (s.portAnswer s.bc) :: s.bus } := rfl

theorem State.outBlock_eq (s : State) (dir : Word) :
    s.outBlock dir = { s with
      main := { s.main with
        b := s.main.b - 1, h := hi (s.hl + dir), l := lo (s.hl + dir)
        f := blockIoFlags (s.peek s.hl) ((s.peek s.hl).toNat + (lo (s.hl + dir)).toNat) (s.main.b - 1) }
      wz := join (s.main.b - 1) s.main.c + dir
      bus := .portWrite (join (s.main.b - 1) s.main.c) (s.peek s.hl) :: .memRead s.hl (s.peek s.hl) :: s.bus } := rfl

/-- R417, R418: an element that may repeat goes back to the `ED` byte while `B` is not 0, and then takes 5 T-states
more. -/
theorem State.finishBlockIo_eq (s : State) (repeats : Bool) :
    (if repeats then s.finishRepeatIo else s.finish 16 2) = .next (State.done { s with
      pc := if repeats && decide (s.main.b ≠ 0) then s.pc - 2 else s.pc }
        (if repeats && decide (s.main.b ≠ 0) then 13 else 8)) := by
  have hend : (if repeats then s.finishRepeatIo else s.finish 16 2) =
      if repeats && decide (s.main.b ≠ 0) then s.rewind.finish 21 2 else s.finish 16 2 := by
    cases repeats with
    | false => rfl
    | true =>
      show (if s.main.b ≠ 0 then _ else _) = _
      exact if_congr decide_eq_true_iff.symm rfl rfl
  rw [hend]
  cases repeats && decide (s.main.b ≠ 0) <;> rfl

/-! ### The obligations -/

/-- Settles O58: the four handlers are one input, in one of two directions, that may or may not repeat. -/
theorem blockInput : Obligations.BlockInput := by
  intro s p hp v b k again
  obtain ⟨hexec, hdir⟩ : exec p.1 s = (if p.2.2.2 then (s.inBlock p.2.1).finishRepeatIo
      else (s.inBlock p.2.1).finish 16 2) ∧ lo p.2.1 = p.2.2.1 := by
    simp only [List.mem_cons, List.not_mem_nil, or_false] at hp
    obtain rfl | rfl | rfl | rfl := hp <;> exact ⟨rfl, rfl⟩
  rw [State.finishBlockIo_eq, State.inBlock_eq, hdir, blockIoFlags_eq] at hexec
  exact ⟨_, hexec, State.stores_one rfl, rfl⟩

/-- Settles O59: the four handlers are one output, in one of two directions, that may or may not repeat. -/
theorem blockOutput : Obligations.BlockOutput := by
  intro s p hp v b port k again
  have hexec : exec p.1 s =
      if p.2.2 then (s.outBlock p.2.1).finishRepeatIo else (s.outBlock p.2.1).finish 16 2 := by
    simp only [List.mem_cons, List.not_mem_nil, or_false] at hp
    obtain rfl | rfl | rfl | rfl := hp <;> rfl
  rw [State.finishBlockIo_eq, State.outBlock_eq, blockIoFlags_eq] at hexec
  exact hexec

end Sys2Proof.Machine
end

section
/-! Reset, NMI and the maskable interrupt: what each leaves, their priority, and the halted core (60_exceptions.md R443
to R457; 70_reset_and_hazards.md R480, R493, R499). -/

namespace Sys2Proof.Machine

/-! ### Which step is taken (R110, R443, R446) -/

theorem State.acceptsInt_iff (s : State) :
    s.acceptsInt = true ↔ s.intReq = true ∧ s.iff1 = true ∧ s.intBlocked = false := by
  simp [State.acceptsInt, and_assoc]

theorem State.acceptsInt_of_refused {s : State} (h : s.intBlocked = true ∨ s.iff1 = false) : s.acceptsInt = false := by
  obtain h | h := h <;> simp [State.acceptsInt, h]

theorem step_of_resetReq {s : State} (hr : s.resetReq = true) :
    step s = .next s.resetService := by
  rw [step_eq, hr]
  rfl

theorem step_of_nmiReq {s : State} (hr : s.resetReq = false) (hn : s.nmiReq = true) :
    step s = .next (State.nmiService { s with intBlocked := false }) := by
  rw [step_eq, hr, hn]
  rfl

theorem step_of_acceptsInt {s : State} (hr : s.resetReq = false) (hn : s.nmiReq = false) (hi : s.acceptsInt = true) :
    step s = .next s.intService := by
  obtain ⟨-, -, hb⟩ := s.acceptsInt_iff.1 hi
  have hs : { s with intBlocked := false } = s := by rw [← hb]
  rw [step_eq, hs, hr, hn, hi]
  rfl

theorem step_of_halted {s : State} (hr : s.resetReq = false) (hn : s.nmiReq = false) (hi : s.acceptsInt = false)
    (hh : s.halted = true) :
    step s = .next { s with intBlocked := false, r := refreshed s.r 1, clk := s.clk + 4 } := by
  rw [step_eq, hr, hn, hi, hh, ← incR_eq]
  rfl

/-! ### Services (R444 to R449) -/

/-- R450: where the interrupted program goes on, which is after the `HALT` byte when the core is halted. -/
def State.returnAddress (s : State) : Word := if s.halted then s.pc + 1 else s.pc

/-- R445, R447: what both services do first, the return address pushed high byte first. -/
theorem State.enterSignal_pushed (s : State) (iff2 : Bool) :
    s.enterSignal iff2 = { s with
      pc := s.returnAddress, halted := false, iff1 := false, iff2 := iff2, sp := s.sp - 2
      mem := (s.mem.store s.regions (s.sp - 1) (hi s.returnAddress)).store s.regions (s.sp - 2) (lo s.returnAddress)
      bus := .memWrite (s.sp - 2) (lo s.returnAddress) :: .memWrite (s.sp - 1) (hi s.returnAddress) :: s.bus } := by
  rw [State.enterSignal_eq, ← sub_one_sub_one]
  rfl

theorem State.intService_of_not_mode2 {s : State} (h : s.im ≠ .mode2) :
    s.intService = (s.enterSignal false).intMode01 := by
  have him : (s.enterSignal false).im = s.im := by rw [State.enterSignal_pushed]
  rw [State.intService, him]
  cases hm : s.im with
  | mode2 => exact absurd hm h
  | mode0 | mode1 => rfl

theorem State.intService_of_mode2 {s : State} (h : s.im = .mode2) :
    s.intService = (s.enterSignal false).intMode2 := by
  have him : (s.enterSignal false).im = .mode2 := by rw [State.enterSignal_pushed]; exact h
  rw [State.intService, him]

/-- Settles O1: the reset service writes constants, so a second one changes nothing, and after it only an NMI comes
before a fetch. -/
theorem resetService : Obligations.ResetService := by
  refine ⟨fun s hr => step_of_resetReq hr, fun s t hr ht => ?_, rfl⟩
  cases (step_of_resetReq hr).symm.trans ht
  refine ⟨step_of_resetReq rfl, fun hn => ⟨rfl, ?_⟩⟩
  exact step_of_fetches ⟨rfl, hn, State.acceptsInt_of_refused (.inr rfl), rfl⟩

/-- Settles O2: the NMI service enters as every signal does, and takes its vector. -/
theorem nmiService : Obligations.NmiService := by
  intro s hr hn ret
  have hstep := step_of_nmiReq hr hn
  rw [State.nmiService, State.enterSignal_pushed] at hstep
  exact ⟨_, hstep, State.stores_two rfl, rfl⟩

/-- Settles O3: modes 0 and 1 enter as every signal does, and take the fixed vector. -/
theorem interruptMode01 : Obligations.InterruptMode01 := by
  intro s hr hn hq hi hb hm ret
  have hstep := step_of_acceptsInt hr hn (s.acceptsInt_iff.2 ⟨hq, hi, hb⟩)
  rw [State.intService_of_not_mode2 hm, State.enterSignal_pushed] at hstep
  exact ⟨_, hstep, State.stores_two rfl, rfl⟩

/-- Settles O4: mode 2 enters as every signal does, and then reads its vector. -/
theorem interruptMode2 : Obligations.InterruptMode2 := by
  intro s hr hn hq hi hb hm ret a
  have hstep := step_of_acceptsInt hr hn (s.acceptsInt_iff.2 ⟨hq, hi, hb⟩)
  rw [State.intService_of_mode2 hm, State.enterSignal_pushed] at hstep
  exact ⟨_, hstep, State.stores_two rfl, rfl⟩

/-! ### Priority (R443, R457) -/

/-- Settles O5: each clause is the whole next state of the service it names. -/
theorem signalPriority : Obligations.SignalPriority := by
  refine ⟨fun s hr => ?reset, fun s hr hn => ?nmi, fun s hr hn ha => ?int⟩
  case reset => exact ⟨_, step_of_resetReq hr, rfl, rfl, rfl, rfl, rfl⟩
  case nmi =>
    have hstep := step_of_nmiReq hr hn
    rw [State.nmiService, State.enterSignal_pushed] at hstep
    exact ⟨_, hstep, rfl, rfl, rfl, rfl, rfl⟩
  case int =>
    have hstep := step_of_acceptsInt hr hn ha
    by_cases hm : s.im = .mode2
    · rw [State.intService_of_mode2 hm, State.enterSignal_pushed] at hstep
      exact ⟨_, hstep, rfl, rfl, rfl, fun h => absurd hm h, fun _ => ⟨_, _, rfl, rfl⟩⟩
    · rw [State.intService_of_not_mode2 hm, State.enterSignal_pushed] at hstep
      exact ⟨_, hstep, rfl, rfl, rfl, fun _ => rfl, fun h => absurd h hm⟩

/-- Settles O6: the reset service keeps both other requests and clears `IFF1`; the NMI service then clears its own. -/
theorem simultaneousRequests : Obligations.SimultaneousRequests := by
  refine ⟨fun s hr hn hq _ => ?_, fun s hr hn hq _ => ?_⟩
  · have hreset := step_of_resetReq hr
    have hnmi : step s.resetService = .next s.resetService.nmiService := step_of_nmiReq rfl hn
    have hret : s.resetService.returnAddress = 0 := rfl
    rw [State.nmiService, State.enterSignal_pushed, hret] at hnmi
    exact ⟨_, _, hreset, rfl, rfl, hn, hq, rfl, hnmi, rfl, rfl, rfl, State.stores_two rfl, rfl, hq,
      State.acceptsInt_of_refused (.inr rfl)⟩
  · have hnmi := step_of_nmiReq hr hn
    rw [State.nmiService, State.enterSignal_pushed] at hnmi
    exact ⟨_, hnmi, rfl, hq, State.acceptsInt_of_refused (.inr rfl), rfl⟩

/-! ### The halted core (R277, R499) -/

/-- Settles O7: by induction on the number of steps; a halted step keeps what makes the next one a halted step. -/
theorem haltWithInterruptsDisabled : Obligations.HaltWithInterruptsDisabled := by
  intro n s hh hi hr hn
  induction n generalizing s with
  | zero => simp [run, refreshed_zero]
  | succ n ih =>
    rw [run_succ, step_of_halted hr hn (State.acceptsInt_of_refused (.inr hi)) hh]
    have hclk : s.clk + 4 + 4 * n = s.clk + 4 * (n + 1) := by omega
    have hrest := ih { s with intBlocked := false, r := refreshed s.r 1, clk := s.clk + 4 } hh hi hr hn
    exact hrest.trans (by simp [hclk, refreshed_add, Nat.add_comm 1])

/-! ### No instruction is split (R493) -/

/-- Settles O16: while a prefix is pending the invariant has `INT_BLOCKED` set or `IFF1` clear, and either refuses. -/
theorem maskableInterruptSplitsNothing : Obligations.MaskableInterruptSplitsNothing := by
  refine ⟨fun s hs ha => ?between, fun s t level hs h hp => ?after⟩
  case between =>
    obtain ⟨-, -, hb⟩ := s.acceptsInt_iff.1 ha
    have hp : ¬ s.prefixPending := fun hp => nomatch (State.acceptsInt_of_refused (hs.unsplit hp)).symm.trans ha
    obtain ⟨hm, hx⟩ := s.not_prefixPending_iff.1 hp
    exact ⟨hm, hx, hb⟩
  case after =>
    have refused : t.intBlocked = true ∨ t.iff1 = false := step_unsplit hs h hp
    exact State.acceptsInt_of_refused (s := { t with intReq := level }) refused

end Sys2Proof.Machine
end

section
/-! The opcode fetches of an instruction, and when the smaller of its two totals applies (70_reset_and_hazards.md R500,
R501). -/

namespace Sys2Proof

/-- R501: how many opcode fetches, each of 4 T-states, an instruction of a table takes: the opcode byte of `DD CB d op`
is read as an operand byte is (R115). -/
def Table.opcodeFetches : Table → Nat
  | .standard => 1
  | .bit | .extended | .indexed _ | .indexedBit _ => 2

/-- A table that a step can look in is reached by a step for each prefix byte, and each step is one opcode fetch. -/
theorem Table.opcodeFetches_eq {t : Table} (h : ∀ xy, t ≠ .indexedBit xy) :
    t.opcodeFetches = t.prefixBytes.length + 1 := by
  cases t with
  | indexedBit xy => exact absurd rfl (h xy)
  | _ => rfl

theorem Instr.cheap_of_table_indexedBit {i : Instr} {xy : IndexReg} (h : i.table = .indexedBit xy) (s : Machine.State) :
    i.cheap s = false := by
  cases i with
  | jrCc _ _ | callCcNn _ _ | retCc _ | djnz _ | ldir | lddr | cpir | cpdr | inir | indr | otir | otdr
  | xyStandard _ _ => nomatch h
  | _ => rfl

/-- Whether the smaller total applies depends on the register file and on what a read at `HL` is answered with only. -/
theorem Instr.cheap_congr (i : Instr) {s t : Machine.State} (hm : t.main = s.main) (hp : t.peek s.hl = s.peek s.hl) :
    i.cheap t = i.cheap s := by
  have hhl : t.hl = s.hl := by rw [Machine.State.hl, hm]; rfl
  have hbc : t.bc = s.bc := by rw [Machine.State.bc, hm]; rfl
  induction i with
  | xyStandard _ _ ih => exact ih
  | jrCc _ _ | callCcNn _ _ | retCc _ | djnz _ | ldir | lddr | cpir | cpdr | inir | indr | otir | otdr =>
    simp only [Instr.cheap, hm, hbc, hhl, hp]
  | _ => rfl

end Sys2Proof
end

section
/-! The T-states of whole instructions (70_reset_and_hazards.md R500, R501). -/

namespace Sys2Proof.Machine

/-- `t` is reached from `s` by the handler of an instruction of `total` T-states, of which its opcode fetches have
already charged 4 each (R501). -/
def State.Takes (s : State) (fetches total : Nat) (t : State) : Prop := t.clk + 4 * fetches = s.clk + total

theorem State.clk_eq_of_controlPart {s t : State} (h : t.controlPart = s.controlPart) : t.clk = s.clk :=
  (congrArg State.clk h :)

/-- A handler with one total, which its opcode fetches do not exceed; the comparison computes for each instruction. -/
theorem Yields.takes {s t : State} {total fetches : Nat} (ht : t.clk = s.clk)
    (hle : Nat.ble (4 * fetches) total = true) : Yields (s.Takes fetches total) (t.finish total fetches) := by
  have hle' := Nat.le_of_ble_eq_true hle
  refine ⟨_, rfl, ?_⟩
  rw [State.Takes, State.complete_clk, ht, Config.tFetch]
  omega

/-- A handler with two totals: the smaller one when the branch is not taken or the block does not repeat. -/
theorem Yields.takes_ite {s t t' : State} {c : Prop} [Decidable c] {cheap : Bool} {low high fetches : Nat}
    (hc : cheap = !decide c) (ht : t.clk = s.clk) (ht' : t'.clk = s.clk)
    (hlow : Nat.ble (4 * fetches) low = true) (hhigh : Nat.ble (4 * fetches) high = true) :
    Yields (s.Takes fetches (if cheap then low else high))
      (if c then t.finish high fetches else t'.finish low fetches) := by
  subst hc
  by_cases h : c
  · simpa [h] using Yields.takes ht hhigh
  · simpa [h] using Yields.takes ht' hlow

/-! ### When a block instruction does not repeat (R206, R211, R418, R422) -/

theorem State.ldBlock_ends (s : State) (dir : Word) : decide (s.bc = 1) = !decide ((s.ldBlock dir).bc ≠ 0) := by
  rw [State.ldBlock_more]
  simp

theorem State.cpBlock_ends (s : State) (dir : Word) :
    (decide (s.bc = 1) || decide (s.main.a = s.peek s.hl)) =
      !(decide ((s.cpBlock dir).2.bc ≠ 0) && decide ((s.cpBlock dir).1 ≠ 0)) := by
  rw [State.cpBlock_more, State.cpBlock_differs]
  simp

/-- `B` counts down to 0 at the pass that finds it at 1. -/
theorem decide_byte_eq_one (b : Byte) : decide (b = 1) = !decide (b - 1 ≠ 0) := by
  rw [← decide_not]
  exact decide_eq_decide.2 (sub_eq_zero.symm.trans not_not.symm)

theorem Yields.takes_finishRepeat {s t : State} {again cheap : Bool} (hc : cheap = !again) (ht : t.clk = s.clk) :
    Yields (s.Takes 2 (if cheap then 16 else 21)) (t.finishRepeat again) :=
  .takes_ite (hc.trans (congrArg (!·) (Bool.decide_coe _).symm)) ht ht rfl rfl

theorem Yields.takes_finishRepeatIo {s t : State} (hb : t.main.b = s.main.b - 1) (ht : t.clk = s.clk) :
    Yields (s.Takes 2 (if decide (s.main.b = 1) then 16 else 21)) t.finishRepeatIo :=
  .takes_ite (by rw [hb, decide_byte_eq_one]) ht ht rfl rfl

/-! ### Instructions -/

/-- R500, R501: a handler charges what the opcode fetches of its instruction leave of the total. -/
theorem exec_handler_takes {i : Instr} (h : i.handler = i) (hp : i.isPrefix = false) (s : State) :
    Yields (s.Takes i.table.opcodeFetches (i.tStates (i.cheap s))) (exec i s) := by
  cases i with
  | xyStandard _ _ | indexedBit _ _ => nomatch h
  | prefixCb | prefixDd | prefixEd | prefixFd | xyPrefixDd _ | xyPrefixFd _ | xyPrefixEd _ => nomatch hp
  | exAfAf | exx | ldIA | ldRA | im0 _ _ | im1 _ | im2 _ | di | ei | retn _ | reti | halt => exact .takes rfl rfl
  | jrCc _ _ | retCc _ | callCcNn _ _ => exact .takes_ite (congrArg (!·) (Bool.decide_coe _).symm) rfl rfl rfl rfl
  | djnz _ => exact .takes_ite (decide_byte_eq_one _) rfl rfl rfl rfl
  | jpCcNn _ _ => exact .ite (.takes rfl rfl) (.takes rfl rfl)
  | ldir | lddr =>
    exact .takes_finishRepeat (s.ldBlock_ends _) (State.clk_eq_of_controlPart (s.controlPart_ldBlock _))
  | cpir | cpdr =>
    exact .takes_finishRepeat (s.cpBlock_ends _) (State.clk_eq_of_controlPart (s.controlPart_cpBlock _))
  | inir | indr => exact .takes_finishRepeatIo rfl (State.clk_eq_of_controlPart (s.controlPart_inBlock _))
  | otir | otdr => exact .takes_finishRepeatIo rfl (State.clk_eq_of_controlPart (s.controlPart_outBlock _))
  | _ => exact .takes (State.clk_eq_of_controlPart (by simp)) rfl

/-- The same of every well-formed instruction: one that an index prefix leaves as it is takes the fetch of that byte
more than its handler (R114 item 5), and a hand-over to the indexed-bit table takes the fetches of that table. -/
theorem exec_takes {i : Instr} (h : i.wf = true) (hp : i.isPrefix = false) (s : State) :
    Yields (s.Takes i.table.opcodeFetches (i.tStates (i.cheap s))) (exec i s) := by
  cases i with
  | xyStandard xy i =>
    obtain ⟨ht, hr, -⟩ := Instr.wf_xyStandard.1 h
    obtain ⟨t, he, hclk⟩ :=
      exec_handler_takes (handler_of_table_standard ht) (isPrefix_of_not_replacedByIndex ht hr) s
    rw [ht] at hclk
    refine ⟨t, (exec_xyStandard h s).trans he, ?_⟩
    show t.clk + 4 * (1 + 1) = s.clk + (i.tStates (i.cheap s) + 4)
    rw [Nat.mul_add, ← Nat.add_assoc, ← Nat.add_assoc]
    exact congrArg (· + 4) hclk
  | indexedBit xy i =>
    obtain ⟨ht, -⟩ := Instr.wf_indexedBit.1 h
    have taken := exec_handler_takes (handler_of_table_indexedBit ht) (isPrefix_of_table_indexedBit ht) s
    rw [ht, Instr.cheap_of_table_indexedBit ht, ← exec_indexedBit h] at taken
    exact taken
  | _ => exact exec_handler_takes rfl hp s

/-- Settles O11: each step charges one opcode fetch, and the handler charges the rest of the total. -/
theorem wholeInstructionTakesItsTStates : Obligations.WholeInstructionTakesItsTStates := by
  intro i s h hp hb hpend hf ha
  have hrun := stepsRunAWholeInstruction i s h hp hb hpend hf ha
  obtain ⟨t, ht, hclk⟩ := exec_takes h hp _
  refine ⟨t, hrun.trans ht, ?_⟩
  rw [State.Takes, Table.opcodeFetches_eq hb, Nat.add_right_comm] at hclk
  exact (Nat.add_right_cancel hclk).trans (congrArg (s.clk + i.tStates ·) (i.cheap_congr rfl rfl))

end Sys2Proof.Machine
end
